-- ==== Sys2Proof/Word.lean ====
section
/-! DEFINITION. The widths of the values of spec/ (R8: every value is an unsigned bit vector, bit 0 least significant). -/

namespace Sys2Proof

/-- A 64-bit cell that holds one register value or one table word (R27), and the width of a parameter
bus and of `rsp_value` (R81, R95). -/
abbrev Word := BitVec 64

/-- One byte of the stream, and the width of the `bits` field (R5, R30). -/
abbrev Byte := BitVec 8

/-- One command word `cmd[15:0]` (R80). -/
abbrev Command := BitVec 16

end Sys2Proof
end

