-- ==== Sys2Proof/Syntax.lean ====
section
/-! DEFINITION. The six commands of the opcode map (R88), one constructor per row of spec/opcode_table.json.
A command's operands are the fields of its word (R84 to R87); the three parameter buses of CREATE are signals beside the
word (R81) and stand in the state's port. -/

namespace Sys2Proof

/-- A decoded command. -/
inductive Instr where
  /-- CREATE, format C (R84): `cmd[9]`, `cmd[8]`, `cmd[7:0]`. -/
  | create (reorder reflect : Bool) (bits : Byte)
  /-- DIGEST, format D (R85): `cmd[7:0]`. -/
  | digest (byte : Byte)
  /-- RESET, format N (R86). -/
  | reset
  /-- GETCRC, format N (R86). -/
  | getcrc
  /-- GETBYTES.BE, format B with `le = 0` (R87). -/
  | getbytesBe
  /-- GETBYTES.LE, format B with `le = 1` (R87). -/
  | getbytesLe
  deriving DecidableEq, Repr

/-- The command's mnemonic in the opcode map (R88). -/
def Instr.mnemonic : Instr → String
  | .create .. => "CREATE"
  | .digest .. => "DIGEST"
  | .reset => "RESET"
  | .getcrc => "GETCRC"
  | .getbytesBe => "GETBYTES.BE"
  | .getbytesLe => "GETBYTES.LE"

/-- CREATE is the one command that UNCONFIGURED lets in (R192) and the one that writes the configuration (R37). -/
def Instr.isCreate : Instr → Bool
  | .create .. => true
  | .digest .. => false
  | .reset => false
  | .getcrc => false
  | .getbytesBe => false
  | .getbytesLe => false

end Sys2Proof
end

