-- ==== Sys2Proof/WellFormed.lean ====
section
/-! DEFINITION. Which command words are legal, from the mask and match columns of the opcode map (R88) and, apart from
them, from the reserved-field rules (R90, R91). -/

namespace Sys2Proof

/-- One row of the opcode map of R88. -/
structure OpcodeRow where
  mnemonic : String
  mask : Command
  pattern : Command
  deriving DecidableEq, Repr

/-- The opcode map (R88). -/
def opcodeMap : List OpcodeRow :=
  [⟨"CREATE", 0xFC00, 0x1000⟩, ⟨"DIGEST", 0xFF00, 0x2000⟩, ⟨"RESET", 0xFFFF, 0x3000⟩,
   ⟨"GETCRC", 0xFFFF, 0x4000⟩, ⟨"GETBYTES.BE", 0xFFFF, 0x5000⟩, ⟨"GETBYTES.LE", 0xFFFF, 0x5100⟩]

/-- A word matches a row when its bits under the row's mask are the row's pattern (R88). -/
def OpcodeRow.covers (r : OpcodeRow) (w : Command) : Bool := w &&& r.mask == r.pattern

/-- A word is legal when some row of the opcode map matches it (R88). -/
def legalWord (w : Command) : Bool := opcodeMap.any fun r => r.covers w

/-- `cmd[15:12]` (R83). -/
def opField (w : Command) : BitVec 4 := w.extractLsb' 12 4

/-- `cmd[11:10]`, reserved (R83). -/
def reservedField (w : Command) : BitVec 2 := w.extractLsb' 10 2

/-- `cmd[7:0]` (R83). -/
def dataField (w : Command) : Byte := w.extractLsb' 0 8

/-- R90: the opcodes 0x0 and 0x6 to 0xF select no command. -/
def opSelects (w : Command) : Bool := 1 ≤ (opField w).toNat && (opField w).toNat ≤ 5

/-- R91: `cmd[11:10]` must be zero in every command. -/
def reservedClear (w : Command) : Bool := reservedField w == 0

/-- R91: `cmd[9]` must be zero except in CREATE. -/
def flag1Clear (w : Command) : Bool := opField w == 1 || !w.getLsbD 9

/-- R91: `cmd[8]` must be zero in DIGEST, RESET, GETCRC. -/
def flag0Clear (w : Command) : Bool := opField w == 1 || opField w == 5 || !w.getLsbD 8

/-- R91: `cmd[7:0]` must be zero in RESET, GETCRC, GETBYTES. -/
def dataClear (w : Command) : Bool := opField w == 1 || opField w == 2 || dataField w == 0

/-- The five checks of R90 and R91 together. -/
def wellFormedWord (w : Command) : Bool :=
  opSelects w && reservedClear w && flag1Clear w && flag0Clear w && dataClear w

/-- The operands of a command have exactly the widths of their fields (R89: 8, 1 and 1 bits), so every term is well
formed: a CREATE whose `bits` is 0 or above 64 is a legal encoding of a CREATE that faults (R84). -/
def Instr.wellFormed : Instr → Bool
  | .create _ _ bits => bits.toNat < 256
  | .digest byte => byte.toNat < 256
  | .reset => true
  | .getcrc => true
  | .getbytesBe => true
  | .getbytesLe => true

end Sys2Proof
end

