-- ==== Sys2Proof/Decode.lean ====
section
/-! DEFINITION. The decoder, total on all 65536 words (R92), and the encoder written from the formats of R84 to R87. -/

namespace Sys2Proof

/-- Why a word is no command. -/
inductive Illegal where
  /-- `op` is 0x0 or 0x6 to 0xF (R90). -/
  | noSuchOpcode
  /-- A legal `op` with a non-zero must-be-zero bit (R91). -/
  | reservedNotZero
  deriving DecidableEq, Repr

/-- The verdict on a word (R92): one of the six commands, or illegal. -/
inductive Decoded where
  | command (i : Instr)
  | illegal (why : Illegal)
  deriving DecidableEq, Repr

/-- The verdict on a word of a known operation: the command if its must-be-zero bits are zero, else illegal (R91). -/
def ifZero (zero : Bool) (i : Instr) : Decoded :=
  if zero then .command i else .illegal .reservedNotZero

/-- The decoder (R88, R90, R91). -/
def decode (w : Command) : Decoded :=
  let rsv := reservedField w
  let f1 := w.getLsbD 9
  let f0 := w.getLsbD 8
  let d := dataField w
  match (opField w).toNat with
  | 1 => ifZero (rsv == 0) (.create f1 f0 d)
  | 2 => ifZero (rsv == 0 && !f1 && !f0) (.digest d)
  | 3 => ifZero (rsv == 0 && !f1 && !f0 && d == 0) .reset
  | 4 => ifZero (rsv == 0 && !f1 && !f0 && d == 0) .getcrc
  | 5 => ifZero (rsv == 0 && !f1 && d == 0) (if f0 then .getbytesLe else .getbytesBe)
  | _ => .illegal .noSuchOpcode

/-- A word from its five fields, high bits first (R83). -/
def wordOf (op : BitVec 4) (f1 f0 : Bool) (d : Byte) : Command :=
  op ++ (0 : BitVec 2) ++ BitVec.ofBool f1 ++ BitVec.ofBool f0 ++ d

/-- The encoder (R84 to R87). -/
def encode : Instr → Command
  | .create reorder reflect bits => wordOf 1 reorder reflect bits
  | .digest byte => wordOf 2 false false byte
  | .reset => wordOf 3 false false 0
  | .getcrc => wordOf 4 false false 0
  | .getbytesBe => wordOf 5 false false 0
  | .getbytesLe => wordOf 5 false true 0

/-- The command word whose low `nbits` bits are `w` and whose other bits are zero. The word is a parallel signal
with bit 0 least significant (R67, R80), so there is no byte order to choose. -/
def tableCommand (nbits w : Nat) : Command := BitVec.ofNat 16 (w % 2 ^ nbits)

/-- The command the decoder reads from a word given as spec/opcode_table.json numbers its bits. -/
def decodeTableWord (nbits w : Nat) : Option Instr :=
  match decode (tableCommand nbits w) with
  | .command i => some i
  | .illegal _ => none

end Sys2Proof
end

