-- ==== Sys2Proof/Config.lean ====
section
/-! DEFINITION. What the spec leaves open: the free values and the open durations. None has a body a proof could use. -/

namespace Sys2Proof

/-- `porRegister draw slot`: the value a register of the given slot (S0 to S10 of R20, in that order) holds after
the POR that made draw number `draw`. FREE VALUE: R210 says that these registers become unspecified (log entry 3). -/
opaque Config.porRegister : Nat → Nat → Word

/-- `tableWord draw index`: what a table word holds that no table-mode CREATE has written since draw number `draw`.
FREE VALUE: R35 and R41 call it unspecified, U6 `any value` (log entry 3). -/
opaque Config.tableWord : Nat → Nat → Word

/-- The five open durations of R7. The model has no time and no rule reads them (D15, log entry 7). -/
opaque Config.tCreate : Nat
/-- The duration of a DIGEST (R7). -/
opaque Config.tDigest : Nat
/-- The duration of a RESET (R7). -/
opaque Config.tReset : Nat
/-- The duration of a GETCRC (R7). -/
opaque Config.tGetcrc : Nat
/-- The duration of a GETBYTES (R7). -/
opaque Config.tGetbytes : Nat

end Sys2Proof
end

