-- ==== Sys2Proof/Machine/State.lean ====
section
/-! DEFINITION. The state of the engine (R20), the ports a step must show (R80, R81, R95), the host's pending events, and
the state right after reset (R41, R210). -/

namespace Sys2Proof.Machine

/-- `state` (R32). The coding 3 is never taken and has no name here (U11). -/
inductive EngineState where
  | unconfigured
  | ready
  | fault
  deriving DecidableEq, Repr

/-- `fault_code` (R33, R190). -/
inductive FaultCode where
  | noFault
  | configFault
  | illegalCommand
  | notConfigured
  deriving DecidableEq, Repr

/-- What the host drives on the command port: the word and the three parameter buses (R80, R81). -/
structure Request where
  cmd : Command
  pPoly : Word
  pInit : Word
  pXor : Word
  deriving DecidableEq, Repr

/-- One event of the host's run (R218): power-on reset, or a command presented with `cmd_valid` true. -/
inductive HostEvent where
  | por
  | command (r : Request)
  deriving DecidableEq, Repr

/-- What the response port carries while `rsp_valid` is true (R95). -/
structure Response where
  value : Word
  len : BitVec 4
  deriving DecidableEq, Repr

/-- The lookup table (R35, R60): pairs of a word index and a 64-bit cell. An index that is not listed is a word whose
content the spec calls unspecified. -/
abbrev Table := List (Nat × Word)

/-- The state. `sum` to `tbl` are the spec's (R20); `port` and `rsp` are its ports; `events`, `responses` and `draws`
are the model's own (INVENTORY.md, State). -/
structure State where
  /-- S0 (R21). -/
  sum : Word
  /-- S1 (R22). -/
  poly : Word
  /-- S2 (R23). -/
  initial : Word
  /-- S3 (R24). -/
  finalXor : Word
  /-- S4 (R25). -/
  highBit : Word
  /-- S5 (R26). -/
  mask : Word
  /-- S6 (R30). -/
  bits : Byte
  /-- S7 (R29). -/
  byTable : Bool
  /-- S8 (R29). -/
  reflect : Bool
  /-- S9 (R29). -/
  reorder : Bool
  /-- S10 (R31). -/
  wsel : BitVec 2
  /-- S11 (R32). -/
  state : EngineState
  /-- S12 (R33). -/
  faultCode : FaultCode
  /-- S13 (R34). -/
  faultInfo : BitVec 16
  /-- `tbl[0..255]` (R35). -/
  tbl : Table
  /-- The input signals at the latest accepted command (R80, R81, R82). -/
  port : Request
  /-- The response that the latest accepted command drove on the response port; `none` if it produced none, and after
  power-on reset, where `rsp_valid` is false (R95, R210, log entry 5). -/
  rsp : Option Response
  /-- The responses the host has seen, oldest first (R218). -/
  responses : List Response
  /-- The host's events not yet taken, oldest first (R218, R28). -/
  events : List HostEvent
  /-- The number of the draw of unspecified values in force (log entry 3). -/
  draws : Nat
  deriving DecidableEq, Repr

/-- The reasons a step could stop the machine. There are none: the spec's three faults are states with a described
entry (R193), every table index exists (R61), and nothing else can go wrong (R197). Safe: no step hides behind it. -/
inductive Fault where
  deriving DecidableEq, Repr

/-- The reasons a step gives a command no meaning. -/
inductive Refusal where
  /-- Raised by `exec` alone, for a command that has no meaning yet. Safe: nothing can be proved of such a step. No arm
  of `exec` uses it. -/
  | notModelled (mnemonic : String)
  deriving DecidableEq, Repr

/-- The machine right after reset (R41, R210): UNCONFIGURED, no fault, no response, no event. The registers S0 to S10
hold 0 (DESIGN CHOICE, unsafe: R41 calls them unspecified; log entry 1), no table word is listed (log entry 2), the port
signals are 0 (DESIGN CHOICE, log entry 4). -/
def State.reset : State where
  sum := 0
  poly := 0
  initial := 0
  finalXor := 0
  highBit := 0
  mask := 0
  bits := 0
  byTable := false
  reflect := false
  reorder := false
  wsel := 0
  state := .unconfigured
  faultCode := .noFault
  faultInfo := 0
  tbl := []
  port := ⟨0, 0, 0, 0⟩
  rsp := none
  responses := []
  events := []
  draws := 0

end Sys2Proof.Machine
end

