-- ==== Sys2Proof/Machine/Ops.lean ====
section
/-! DEFINITION. The named operations: register width and truncation, the table's reads and writes, writing `sum`, the
ports, taking a fault, power-on reset, and the two ways a command is let in. -/

namespace Sys2Proof.Machine

/-- `trunc_w` of a 64-bit value, kept in a 64-bit cell (R8, R27). -/
def narrow (w : Nat) (v : Word) : Word := (v.setWidth w).setWidth 64

/-- `v << k` on a `w`-bit value: bits shifted past bit `w-1` are lost (R9). -/
def shiftLeft (w : Nat) (v : Word) (k : Nat) : Word := narrow w (v <<< k)

/-- The width `W` coded by `wsel`: `8 << wsel` (R31). -/
def widthOfSel (wsel : BitVec 2) : Nat := 8 <<< wsel.toNat

/-- The active register width `W` (R6, R31). -/
def State.width (s : State) : Nat := widthOfSel s.wsel

/-- The word listed for an index, if one is. -/
def Table.lookup (i : Nat) : Table → Option Word
  | [] => none
  | (j, v) :: rest => if j = i then some v else Table.lookup i rest

/-- Writing all 256 words at once: the effect of the builders' loops over `i` in 0..256 (R121, R123). No command
writes a single word (R35, R60). -/
def Table.fill (f : Nat → Word) : Table := (List.range 256).map fun i => (i, f i)

/-- The canonical form of a table at width `w`: indices strictly rising and below 256 (R60), every word a `w`-bit value
(R27). An unlisted word has no value of its own, so no listed value repeats it. -/
def Table.wf (w : Nat) (t : Table) : Bool :=
  (t.map Prod.fst).Pairwise (· < ·) && t.all fun c => c.1 < 256 && c.2.toNat < 2 ^ w

/-- `tbl[i]` (R10). The index is 8 bits, so it is in range (R61). A word that is not listed is unspecified (R35): it
reads as a free value of `W` bits (log entry 3). -/
def State.tblWord (s : State) (i : Byte) : Word :=
  match s.tbl.lookup i.toNat with
  | some v => v
  | none => narrow s.width (Config.tableWord s.draws i.toNat)

/-- `x[sum] <- v`, truncated to `W` bits (R27). -/
def State.writeSum (s : State) (v : Word) : State := { s with sum := narrow s.width v }

/-- A command that produces no response (R95, log entry 5). -/
def State.noResponse (s : State) : State := { s with rsp := none }

/-- Driving the response port (R95); the host records the response (R218). -/
def State.respondWith (s : State) (r : Response) : State :=
  { s with rsp := some r, responses := s.responses ++ [r] }

/-- `respond(v)`: a GETCRC response, with `rsp_len = 0` (R95). -/
def State.respond (s : State) (v : Word) : State := s.respondWith ⟨v, 0⟩

/-- The bytes packed for `rsp_value`, the first emitted byte in bits 7:0 and zeros above the last (R95). -/
def packBytes : List Byte → Word
  | [] => 0
  | b :: rest => b.setWidth 64 ||| (packBytes rest <<< 8)

/-- `respond_bytes(bs)`: a GETBYTES response, with `rsp_len` the number of bytes (R95). -/
def State.respondBytes (s : State) (bs : List Byte) : State :=
  s.respondWith ⟨packBytes bs, BitVec.ofNat 4 bs.length⟩

/-- `cmd_ready` between two commands: true unless the engine is in FAULT (R82, R196). -/
def State.cmdReady (s : State) : Bool := s.state != .fault

/-- The 2-bit coding of `state` (R32). -/
def EngineState.code : EngineState → BitVec 2
  | .unconfigured => 0
  | .ready => 1
  | .fault => 2

/-- The 2-bit coding of `fault_code` (R33). -/
def FaultCode.code : FaultCode → BitVec 2
  | .noFault => 0
  | .configFault => 1
  | .illegalCommand => 2
  | .notConfigured => 3

/-- `st_state[1:0]` (R96). -/
def State.stState (s : State) : BitVec 2 := s.state.code

/-- `st_fault[1:0]` (R96). -/
def State.stFault (s : State) : BitVec 2 := s.faultCode.code

/-- `st_info[15:0]` (R96). -/
def State.stInfo (s : State) : BitVec 16 := s.faultInfo

/-- Fault entry, `raise F(cmd)` (R193): `fault_code`, `fault_info` and `state` are written, there is no response, and
nothing else changes. There is no return from a fault but power-on reset (R196). -/
def raiseFault (code : FaultCode) (s : State) : State :=
  { s with faultCode := code, faultInfo := s.port.cmd, state := .fault, rsp := none }

/-- Power-on reset (R210): the status registers take their reset values, no response is valid, and every other register
and table word becomes unspecified: the registers are free values of a fresh draw, kept within the width that the
unspecified `wsel` codes (R27), and no table word is listed (log entry 3). The host's own fields stay. -/
def powerOnReset (s : State) : State :=
  let draw := s.draws + 1
  let free := Config.porRegister draw
  let wsel := (free 10).setWidth 2
  let cell := fun slot => narrow (widthOfSel wsel) (free slot)
  { s with
    sum := cell 0
    poly := cell 1
    initial := cell 2
    finalXor := cell 3
    highBit := cell 4
    mask := cell 5
    bits := (free 6).setWidth 8
    byTable := (free 7).getLsbD 0
    reflect := (free 8).getLsbD 0
    reorder := (free 9).getLsbD 0
    wsel := wsel
    state := .unconfigured
    faultCode := .noFault
    faultInfo := 0
    tbl := []
    rsp := none
    draws := draw }

/-- CREATE is let in while `cmd_ready` is true (R130); in FAULT no command is accepted and nothing changes (R196). -/
def whenAccepting (k : State → State) (s : State) : Host.Outcome State Fault Refusal :=
  match s.state with
  | .unconfigured => .next (k s)
  | .ready => .next (k s)
  | .fault => .next s

/-- A legal command other than CREATE: it has its effect in READY, it raises NotConfigured in UNCONFIGURED (R192), and in
FAULT it is not accepted and nothing changes (R196). -/
def whenReady (k : State → State) (s : State) : Host.Outcome State Fault Refusal :=
  match s.state with
  | .unconfigured => .next (raiseFault .notConfigured s)
  | .ready => .next (k s)
  | .fault => .next s

/-- Taking the oldest event off the host's list. -/
def State.dropEvent (s : State) : State := { s with events := s.events.tail }

/-- The word and the buses are sampled at the moment a command is accepted (R82). -/
def State.sample (s : State) (r : Request) : State := { s with port := r }

/-- The host presents a command word next, with whatever the buses carry at the time. -/
def State.presentNext (s : State) (w : Command) : State :=
  { s with events := .command { s.port with cmd := w } :: s.events }

end Sys2Proof.Machine
end

