-- ==== Sys2Proof/Machine/Operands.lean ====
section
/-! DEFINITION. What CREATE makes of its operands: the range check, the width selector, `high_bit` and `mask`, and the
narrowing of the buses. -/

namespace Sys2Proof.Machine

/-- CREATE's check on `bits`: 1 to 64 (R130, R141). -/
def bitsInRange (bits : Byte) : Bool := 1 ≤ bits.toNat && bits.toNat ≤ 64

/-- `width_select(bits)` (R131). -/
def widthSelect (bits : Nat) : Nat :=
  if bits ≤ 8 then 8 else if bits ≤ 16 then 16 else if bits ≤ 32 then 32 else 64

/-- `log2(W / 8)`, the coding of the width (R31, R130). -/
def selOfWidth (w : Nat) : BitVec 2 := BitVec.ofNat 2 (w / 8).log2

/-- `high_bit = 1 << (bits - 1)`, a `w`-bit value (R25, R134). -/
def highBitOf (w bits : Nat) : Word := shiftLeft w 1 (bits - 1)

/-- `mask = ((high_bit - 1) << 1) | 1`, a `w`-bit value (R26, R134). -/
def maskOf (w : Nat) (highBit : Word) : Word := shiftLeft w (highBit - 1) 1 ||| 1

/-- A parameter bus narrowed to the active width, `trunc_W` (R89). -/
def busOperand (w : Nat) (bus : Word) : Word := narrow w bus

/-- `ceil(bits/8)`, as `(bits + 7) >> 3` (R9, R176). -/
def byteLength (bits : Byte) : Nat := (bits.toNat + 7) >>> 3

end Sys2Proof.Machine
end

