-- ==== Sys2Proof/Machine/Flags.lean ====
section
/-! DEFINITION. The mode flags (R29). There are no condition codes: no command sets a flag from its arithmetic. `by_table`
is derived from `bits`, and the three flags select the update rule of DIGEST and the read path. -/

namespace Sys2Proof.Machine

/-- `by_table` is 1 exactly when `bits % 8 == 0` (R132). -/
def byTableOf (bits : Nat) : Bool := bits % 8 == 0

/-- The four update rules (R150). -/
inductive UpdateRule where
  | a | b | c | d
  deriving DecidableEq, Repr

/-- The choice of the update rule from `by_table`, `bits == 8` and `reflect` (R150, R155). -/
def updateRule (byTable reflect : Bool) (bits : Byte) : UpdateRule :=
  if byTable && bits == 8 then .a
  else if byTable && reflect then .b
  else if byTable then .c
  else .d

/-- The read path turns the register exactly in bitwise reflected mode (R175). -/
def turnedAtRead (byTable reflect : Bool) : Bool := !byTable && reflect

end Sys2Proof.Machine
end

