-- ==== Sys2Proof/Machine/BitReflector.lean ====
section
/-! DEFINITION. The bit-reflection unit (spec/40_bit_reflector.md). -/

namespace Sys2Proof.Machine

/-- The loop of `reflect_bits` (R110): `i` is a one-hot mask moving right until it is 0, `j` one moving left. A 64-bit
`i` is 0 after at most 64 passes, which the first argument counts. -/
def reflectLoop (n : Word) : Nat → Word → Word → Word → Word
  | 0, _, _, out => out
  | passes + 1, i, j, out =>
    if i = 0 then out
    else reflectLoop n passes (i >>> 1) (j <<< 1) (if n &&& i = 0 then out else out ||| j)

/-- `reflect_bits(h, n)` (R110). -/
def reflectBits (h n : Word) : Word := reflectLoop n 64 h 1 0

/-- The byte reversed, `reflect_bits(0x80, byte)` (R112 use d). -/
def reflectByte (b : Byte) : Byte := (reflectBits 0x80 (b.setWidth 64)).setWidth 8

/-- The working form of the initial value, the seed (R136, R170). -/
def seedOf (reflect : Bool) (highBit initial : Word) : Word :=
  if reflect then reflectBits highBit initial else initial

end Sys2Proof.Machine
end

