-- ==== Sys2Proof/Machine/TableBuilder.lean ====
section
/-! DEFINITION. The table builder (spec/41_table_builder.md), the part of CREATE that fills the lookup table. -/

namespace Sys2Proof.Machine

/-- Doing something `k` times. -/
def repeatTimes (f : Word → Word) : Nat → Word → Word
  | 0, v => v
  | k + 1, v => repeatTimes f k (f v)

/-- One round of the forward builder on a `w`-bit running value (R121). -/
def forwardRound (w : Nat) (mask1 mask2 p v : Word) : Word :=
  (if v &&& mask1 = 0 then shiftLeft w v 1 else shiftLeft w v 1 ^^^ p) &&& mask2

/-- The forward table's word for candidate byte `i`: eight rounds from `i << (bits - 8)` (R121, R122). -/
def forwardWord (w : Nat) (p : Word) (bits i : Nat) : Word :=
  let mask1 := highBitOf w bits
  let mask2 := maskOf w mask1
  repeatTimes (forwardRound w mask1 mask2 p) 8 (shiftLeft w (BitVec.ofNat 64 i) (bits - 8))

/-- One round of the reflected builder (R123). -/
def reflectedRound (p v : Word) : Word :=
  if v &&& 1 = 0 then v >>> 1 else (v >>> 1) ^^^ p

/-- The reflected table's word for byte `i`: eight rounds from `i` (R123). -/
def reflectedWord (p : Word) (i : Nat) : Word :=
  repeatTimes (reflectedRound p) 8 (BitVec.ofNat 64 i)

/-- `build_forward(P, bits)` (R121). -/
def buildForward (w : Nat) (p : Word) (bits : Nat) : Table := Table.fill (forwardWord w p bits)

/-- `build_reflected(P)` (R123). -/
def buildReflected (p : Word) : Table := Table.fill (reflectedWord p)

/-- The table of a table-mode CREATE (R120). -/
def buildTable (reflect : Bool) (w : Nat) (p : Word) (bits : Nat) : Table :=
  if reflect then buildReflected p else buildForward w p bits

end Sys2Proof.Machine
end

