-- ==== Sys2Proof/Machine/Create.lean ====
section
/-! DEFINITION. CREATE and the polynomial width selector (spec/42_create.md). -/

namespace Sys2Proof.Machine

/-- The `poly` register after CREATE (R135): reflected once in bitwise reflected mode, else the word as given. -/
def polyRegister (byTable reflect : Bool) (highBit p : Word) : Word :=
  if !byTable && reflect then reflectBits highBit p else p

/-- The effect of a CREATE whose `bits` is in range (R130): every register S0 to S10 is written, `state` becomes READY,
and in table mode all 256 words are built. In bitwise mode the table is not written and its content is unspecified from
then on (R35): no word is listed and a fresh draw is in force (log entry 3). -/
def configure (reorder reflect : Bool) (bits : Byte) (s : State) : State :=
  let n := bits.toNat
  let w := widthSelect n
  let highBit := highBitOf w n
  let byTable := byTableOf n
  let p := busOperand w s.port.pPoly
  let init := busOperand w s.port.pInit
  { s with
    wsel := selOfWidth w
    bits := bits
    reflect := reflect
    reorder := reorder
    byTable := byTable
    highBit := highBit
    mask := maskOf w highBit
    initial := init
    finalXor := busOperand w s.port.pXor
    poly := polyRegister byTable reflect highBit p
    tbl := if byTable then buildTable reflect w p n else []
    draws := if byTable then s.draws else s.draws + 1
    sum := seedOf reflect highBit init
    state := .ready
    rsp := none }

/-- CREATE (R130): ConfigFault when `bits` is 0 or above 64, with nothing else written; else the configuration. -/
def createEffect (reorder reflect : Bool) (bits : Byte) (s : State) : State :=
  if bitsInRange bits then configure reorder reflect bits s else raiseFault .configFault s

/-- The meaning of CREATE (R130, R138: the same from UNCONFIGURED and from READY). -/
def execCreate (reorder reflect : Bool) (bits : Byte) (s : State) : Host.Outcome State Fault Refusal :=
  whenAccepting (createEffect reorder reflect bits) s

end Sys2Proof.Machine
end

