-- ==== Sys2Proof/Machine/Digest.lean ====
section
/-! DEFINITION. DIGEST and its four update rules (spec/43_digest.md). Each rule gives the new `sum` from the old state. -/

namespace Sys2Proof.Machine

/-- Rule a, table, full byte (R151): `tbl[sum ^ byte]`. -/
def ruleA (byte : Byte) (s : State) : Word :=
  s.tblWord ((s.sum ^^^ byte.setWidth 64).setWidth 8)

/-- Rule b, table, reflected (R152): `(sum >> 8) ^ tbl[sum[7:0] ^ byte]`. -/
def ruleB (byte : Byte) (s : State) : Word :=
  (s.sum >>> 8) ^^^ s.tblWord (s.sum.setWidth 8 ^^^ byte)

/-- Rule c, table, forward (R153): `(sum << 8) ^ tbl[(sum >> (bits-8))[7:0] ^ byte]`. -/
def ruleC (byte : Byte) (s : State) : Word :=
  shiftLeft s.width s.sum 8 ^^^ s.tblWord ((s.sum >>> (s.bits.toNat - 8)).setWidth 8 ^^^ byte)

/-- One bit of rule d (R154, in the order R158 fixes): test the unshifted `sum`, shift, fold the input bit into the flag,
XOR with `poly` if the flag is set. -/
def bitStep (w : Nat) (highBit poly sum : Word) (input : Bool) : Word :=
  let tested := sum &&& highBit != 0
  let shifted := shiftLeft w sum 1
  let flag := if input then !tested else tested
  if flag then shifted ^^^ poly else shifted

/-- The input bits of a byte in the order rule d takes them: bit 7 first, bit 0 last (R154). -/
def bitsFromTop (n : Byte) : List Bool := [7, 6, 5, 4, 3, 2, 1, 0].map n.getLsbD

/-- Rule d on a register: all eight bits of the (possibly reversed) byte (R154). -/
def bitSerial (w : Nat) (highBit poly : Word) (n : Byte) (sum : Word) : Word :=
  (bitsFromTop n).foldl (bitStep w highBit poly) sum

/-- Rule d, bitwise (R154). -/
def ruleD (byte : Byte) (s : State) : Word :=
  bitSerial s.width s.highBit s.poly (if s.reflect then reflectByte byte else byte) s.sum

/-- The new `sum` by the rule that R150 selects. -/
def digestSum (byte : Byte) (s : State) : Word :=
  match updateRule s.byTable s.reflect s.bits with
  | .a => ruleA byte s
  | .b => ruleB byte s
  | .c => ruleC byte s
  | .d => ruleD byte s

/-- The effect of DIGEST in READY (R150): `sum` only, and no response. -/
def digestEffect (byte : Byte) (s : State) : State := (s.writeSum (digestSum byte s)).noResponse

/-- The meaning of DIGEST (R150). -/
def execDigest (byte : Byte) (s : State) : Host.Outcome State Fault Refusal :=
  whenReady (digestEffect byte) s

end Sys2Proof.Machine
end

