-- ==== Sys2Proof/Machine/OutputFormatter.lean ====
section
/-! DEFINITION. The output formatter (spec/45_output_formatter.md): GETCRC, GETBYTES.BE, GETBYTES.LE. None of them writes a
register or the table. -/

namespace Sys2Proof.Machine

/-- The register turned to output orientation (R175). -/
def State.turnedSum (s : State) : Word :=
  if turnedAtRead s.byTable s.reflect then reflectBits s.highBit s.sum else s.sum

/-- `raw_value()` (R175): the final XOR, then the mask. -/
def State.rawValue (s : State) : Word := (s.turnedSum ^^^ s.finalXor) &&& s.mask

/-- The reversal of the low `len` bytes of `v`, as the loop of R176 builds it: byte `k` goes to byte `len-1-k`. -/
def reverseBytes (w len : Nat) (v : Word) : Word :=
  (List.range len).foldl
    (fun r k => r ||| shiftLeft w ((v >>> (8 * k)) &&& 0xFF) (8 * (len - 1 - k))) 0

/-- `crc_value()` (R176). -/
def State.crcValue (s : State) : Word :=
  if s.reorder then reverseBytes s.width (byteLength s.bits) s.rawValue else s.rawValue

/-- `out_bytes()` (R180): the `ceil(bits/8)` bytes of `crc_value()`, most significant first. -/
def State.outBytes (s : State) : List Byte :=
  let len := byteLength s.bits
  (List.range len).map fun k => (s.crcValue >>> (8 * (len - 1 - k))).setWidth 8

/-- The effect of GETCRC in READY (R177). -/
def getcrcEffect (s : State) : State := s.respond s.crcValue

/-- The meaning of GETCRC (R177). -/
def execGetcrc (s : State) : Host.Outcome State Fault Refusal := whenReady getcrcEffect s

/-- The effect of GETBYTES.BE in READY (R182). -/
def getbytesBeEffect (s : State) : State := s.respondBytes s.outBytes

/-- The meaning of GETBYTES.BE (R182). -/
def execGetbytesBe (s : State) : Host.Outcome State Fault Refusal := whenReady getbytesBeEffect s

/-- The effect of GETBYTES.LE in READY (R183). -/
def getbytesLeEffect (s : State) : State := s.respondBytes s.outBytes.reverse

/-- The meaning of GETBYTES.LE (R183). -/
def execGetbytesLe (s : State) : Host.Outcome State Fault Refusal := whenReady getbytesLeEffect s

end Sys2Proof.Machine
end

