-- ==== Sys2Proof/Machine/ResetCommand.lean ====
section
/-! DEFINITION. The RESET command (spec/44_reset_cmd.md). It is not power-on reset. -/

namespace Sys2Proof.Machine

/-- The working form of `initial` (R170, R171). -/
def State.seed (s : State) : Word := seedOf s.reflect s.highBit s.initial

/-- The effect of RESET in READY (R170): `sum` only, and no response. -/
def resetEffect (s : State) : State := (s.writeSum s.seed).noResponse

/-- The meaning of RESET (R170). -/
def execReset (s : State) : Host.Outcome State Fault Refusal := whenReady resetEffect s

end Sys2Proof.Machine
end

