-- ==== Sys2Proof/Machine/Dispatch.lean ====
section
/-! DEFINITION. The dispatch of a decoded command to its meaning, one arm per command. -/

namespace Sys2Proof.Machine

def exec (i : Instr) (s : State) : Host.Outcome State Fault Refusal :=
  match i with
  | .create reorder reflect bits => Sys2Proof.Machine.execCreate reorder reflect bits s
  | .digest byte => Sys2Proof.Machine.execDigest byte s
  | .reset => Sys2Proof.Machine.execReset s
  | .getcrc => Sys2Proof.Machine.execGetcrc s
  | .getbytesBe => Sys2Proof.Machine.execGetbytesBe s
  | .getbytesLe => Sys2Proof.Machine.execGetbytesLe s

end Sys2Proof.Machine
end

