-- ==== Sys2Proof/Machine/CommandPort.lean ====
section
/-! DEFINITION. The command port (R80 to R82, R97): what one event of the host does. -/

namespace Sys2Proof.Machine

/-- An accepted word (R97): decode first, an illegal word raises IllegalCommand whatever the state (R191), a legal one
has the meaning of its command, which makes the state check and the range check. -/
def runWord (s : State) : Host.Outcome State Fault Refusal :=
  match decode s.port.cmd with
  | .command i => exec i s
  | .illegal _ => .next (raiseFault .illegalCommand s)

/-- A presented command is accepted while `cmd_ready` is true, and the word and buses are sampled then (R82). In FAULT it
is not accepted, whatever the word, and nothing changes (R196). -/
def presentCommand (r : Request) (s : State) : Host.Outcome State Fault Refusal :=
  if s.cmdReady then runWord (s.sample r) else .next s

/-- One event of the host (R218). -/
def takeEvent (e : HostEvent) (s : State) : Host.Outcome State Fault Refusal :=
  match e with
  | .por => .next (powerOnReset s)
  | .command r => presentCommand r s

/-- One step: the oldest event is taken; with no event pending nothing happens (R82, R217). -/
def advance (s : State) : Host.Outcome State Fault Refusal :=
  match s.events with
  | [] => .next s
  | e :: _ => takeEvent e s.dropEvent

end Sys2Proof.Machine
end

