-- ==== Sys2Proof/Machine/Step.lean ====
section
/-! DEFINITION. One step of the machine, and the placing of a command where the next step takes it. -/

namespace Sys2Proof.Machine

/-- One step: the engine takes the host's oldest event (R68, R217). -/
def step (s : State) : Host.Outcome State Fault Refusal := advance s

/-- The state with a command word presented as the host's next event; the buses carry what the port carries
(log entry 8). -/
def State.withFetchWord (s : State) (nbits w : Nat) : State := s.presentNext (tableCommand nbits w)

end Sys2Proof.Machine
end

