-- ==== Sys2Proof/Machine/Text.lean ====
section
/-! DEFINITION. The textual spelling of commands (R93) and the pseudo-commands (R94). Nothing the engine does reads them
(D20). -/

namespace Sys2Proof.Machine

/-- A number in the spec's hexadecimal notation, `0x..` (R8). -/
def hexText (n : Nat) : String := "0x" ++ String.ofList ((Nat.toDigits 16 n).map Char.toUpper)

/-- A flag as 0 or 1 (R93). -/
def flagText (b : Bool) : String := if b then "1" else "0"

/-- One line of a program for a command with the buses of its request (R93). `reorder=0`, which may be omitted, is
written out. -/
def commandText (i : Instr) (r : Request) : String :=
  match i with
  | .create reorder reflect bits =>
    "CREATE poly=" ++ hexText r.pPoly.toNat ++ ", bits=" ++ toString bits.toNat ++ ", init=" ++ hexText r.pInit.toNat
      ++ ", xor=" ++ hexText r.pXor.toNat ++ ", reflect=" ++ flagText reflect ++ ", reorder=" ++ flagText reorder
  | .digest byte => "DIGEST " ++ hexText byte.toNat
  | .reset => "RESET"
  | .getcrc => "GETCRC"
  | .getbytesBe => "GETBYTES.BE"
  | .getbytesLe => "GETBYTES.LE"

/-- `DIGEST.B b0 b1 ...`: one DIGEST per byte, in order; with no byte, nothing (R94). -/
def digestBytes (bs : List Byte) : List Command := bs.map fun b => encode (.digest b)

/-- `DIGEST.S "text"`: one DIGEST per character, with the character's code (R94). -/
def digestString (text : String) : List Command := digestBytes (text.toList.map fun c => BitVec.ofNat 8 c.toNat)

/-- `GETBYTES <BE|LE>` (R94). -/
def getbytes (le : Bool) : Command := encode (if le then .getbytesLe else .getbytesBe)

/-- The host's events for a list of command words, the buses at rest at the given values. -/
def presentAll (buses : Request) (ws : List Command) : List HostEvent :=
  ws.map fun w => .command { buses with cmd := w }

end Sys2Proof.Machine
end

