-- ==== Sys2Proof/Safety.lean ====
section
/-! DEFINITION. What claims are stated in terms of: the host's contract, the READY invariant, what a run may not tell
apart, and what a run that ended well is. -/

namespace Sys2Proof.Machine

/-- The host's contract on the parameters of a CREATE, which the engine does not check (R213). -/
def Request.inContract (r : Request) (bits : Byte) : Prop :=
  r.pPoly.toNat < 2 ^ bits.toNat ∧ r.pInit.toNat < 2 ^ bits.toNat ∧ r.pXor.toNat < 2 ^ bits.toNat

/-- Every data register is a `W`-bit value and the table is in canonical form at width `W` (R27, R60). -/
structure State.CellsFit (s : State) : Prop where
  sum : s.sum.toNat < 2 ^ s.width
  poly : s.poly.toNat < 2 ^ s.width
  initial : s.initial.toNat < 2 ^ s.width
  finalXor : s.finalXor.toNat < 2 ^ s.width
  highBit : s.highBit.toNat < 2 ^ s.width
  mask : s.mask.toNat < 2 ^ s.width
  tbl : s.tbl.wf s.width = true

/-- What holds of the configuration in READY (R36), with the table that the configuration determines (R125). -/
structure State.Configured (s : State) : Prop where
  bitsPos : 1 ≤ s.bits.toNat
  bitsLe : s.bits.toNat ≤ 64
  width : s.width = widthSelect s.bits.toNat
  byTable : s.byTable = (s.bits.toNat % 8 == 0)
  highBit : s.highBit = BitVec.ofNat 64 (2 ^ (s.bits.toNat - 1))
  mask : s.mask = BitVec.ofNat 64 (2 ^ s.bits.toNat - 1)
  tbl : s.byTable = true → s.tbl = buildTable s.reflect s.width s.poly s.bits.toNat

/-- The invariant of the machine: cells fit, and READY means configured. -/
structure State.Inv (s : State) : Prop where
  cells : s.CellsFit
  ready : s.state = .ready → s.Configured

/-- The fault record explains itself (R32 to R34, R190): outside FAULT there is no code and no word; in FAULT the word
that is shown is one that raises the fault whose code is shown. -/
def State.FaultRecord (s : State) : Prop :=
  match s.faultCode with
  | .noFault => s.state ≠ .fault ∧ s.faultInfo = 0
  | .configFault => s.state = .fault ∧ ∃ reorder reflect bits,
      decode s.faultInfo = .command (.create reorder reflect bits) ∧ (bits.toNat = 0 ∨ 64 < bits.toNat)
  | .illegalCommand => s.state = .fault ∧ ∃ why, decode s.faultInfo = .illegal why
  | .notConfigured => s.state = .fault ∧ ∃ i, decode s.faultInfo = .command i ∧ i.isCreate = false

/-- In reflected table mode with an in-domain polynomial word the register stays below `2^bits` (R39, R152). -/
def State.ReflectedInRange (s : State) : Prop :=
  s.state = .ready → s.byTable = true → s.reflect = true → s.poly.toNat < 2 ^ s.bits.toNat →
    s.sum.toNat < 2 ^ s.bits.toNat

/-- Everything that only CREATE writes between two power-on resets is the same, the table read word by word (R37). -/
structure State.SameConfig (s t : State) : Prop where
  poly : t.poly = s.poly
  initial : t.initial = s.initial
  finalXor : t.finalXor = s.finalXor
  highBit : t.highBit = s.highBit
  mask : t.mask = s.mask
  bits : t.bits = s.bits
  byTable : t.byTable = s.byTable
  reflect : t.reflect = s.reflect
  reorder : t.reorder = s.reorder
  wsel : t.wsel = s.wsel
  tbl : ∀ i, t.tblWord i = s.tblWord i

/-- The registers S0 to S10 of two states agree. -/
structure State.SameRegisters (s t : State) : Prop where
  sum : t.sum = s.sum
  poly : t.poly = s.poly
  initial : t.initial = s.initial
  finalXor : t.finalXor = s.finalXor
  highBit : t.highBit = s.highBit
  mask : t.mask = s.mask
  bits : t.bits = s.bits
  byTable : t.byTable = s.byTable
  reflect : t.reflect = s.reflect
  reorder : t.reorder = s.reorder
  wsel : t.wsel = s.wsel

/-- Two configured states that no continuation tells apart (R39, R139, R218): the same configuration, the same
significant bits of the data registers, and where the table is used the same table words; in reflected table mode, R39's
exception, the same `sum`. -/
structure State.SameSignificant (s t : State) : Prop where
  bits : t.bits = s.bits
  byTable : t.byTable = s.byTable
  reflect : t.reflect = s.reflect
  reorder : t.reorder = s.reorder
  wsel : t.wsel = s.wsel
  highBit : t.highBit = s.highBit
  mask : t.mask = s.mask
  initial : t.initial &&& s.mask = s.initial &&& s.mask
  finalXor : t.finalXor &&& s.mask = s.finalXor &&& s.mask
  sum : t.sum &&& s.mask = s.sum &&& s.mask
  sumReflectedTable : s.byTable = true → s.reflect = true → t.sum = s.sum
  poly : s.byTable = false → t.poly &&& s.mask = s.poly &&& s.mask
  tbl : s.byTable = true → ∀ i, t.tblWord i = s.tblWord i

/-- Two states the host cannot tell apart now or later: the ports and the host's own record agree, and in READY the
significant state agrees. -/
structure State.Indist (s t : State) : Prop where
  state : t.state = s.state
  faultCode : t.faultCode = s.faultCode
  faultInfo : t.faultInfo = s.faultInfo
  rsp : t.rsp = s.rsp
  responses : t.responses = s.responses
  events : t.events = s.events
  ready : s.state = .ready → s.SameSignificant t

/-- The commands of a list one after the other, each already accepted. -/
def execAll : List Instr → State → Host.Outcome State Fault Refusal
  | [], s => .next s
  | i :: rest, s =>
    match exec i s with
    | .next t => execAll rest t
    | .fault f => .fault f
    | .refused r => .refused r

/-- `n` steps of the machine. -/
def runSteps : Nat → State → Host.Outcome State Fault Refusal
  | 0, s => .next s
  | n + 1, s =>
    match step s with
    | .next t => runSteps n t
    | .fault f => .fault f
    | .refused r => .refused r

/-- The oldest event is a command that is not accepted. -/
def State.turnsAway (s : State) : Bool :=
  match s.events with
  | .command _ :: _ => !s.cmdReady
  | _ => false

/-- The end of a run (R218): within `n` steps every event is taken, every command is accepted, and no step leads to
FAULT, so the run ends in UNCONFIGURED or READY. A run that faults and is then revived by power-on reset before its end
has ended badly: R218's first sentence, which looks at the last state, would let it pass, its later sentence ("A run that
reaches FAULT has ended badly") does not, and D4 lets nothing be proved of a run with such a word (DESIGN CHOICE between
the two sentences, log entry 12). A FAULT that stands before the first event belongs to an earlier run: the run is bad if
it begins with a command, which is turned away, and may end well if it begins with a power-on reset (DESIGN CHOICE, log
entry 12). -/
def endedWell : Nat → State → Bool
  | 0, s => s.events.isEmpty && s.cmdReady
  | n + 1, s =>
    if s.events.isEmpty then s.cmdReady
    else if s.turnsAway then false
    else
      match step s with
      | .next t => t.cmdReady && endedWell n t
      | .fault _ => false
      | .refused _ => false

/-- The host's events hold no power-on reset. -/
def noPor (es : List HostEvent) : Bool := es.all fun e => e != .por

end Sys2Proof.Machine
end

