-- ==== Sys2Proof/Safety/WidthIndexed.lean ====
section
/-! DEFINITION. The engine's arithmetic over values of a type indexed by `W`, which R27 calls the same machine: no 64-bit
cell, no truncation by hand, no stored table, and bit positions named by `bits` instead of one-hot masks. Claims compare
the model with it; the model does not use it. -/

namespace Sys2Proof.WidthIndexed

/-- The low `bits` bits reversed, zeros above (R110's closed form). -/
def reverseLow {W : Nat} (bits : Nat) (n : BitVec W) : BitVec W := n.reverse >>> (W - bits)

/-- The seed (R136). -/
def seed {W : Nat} (bits : Nat) (reflect : Bool) (initial : BitVec W) : BitVec W :=
  if reflect then reverseLow bits initial else initial

/-- One round of the forward builder (R121). -/
def forwardRound {W : Nat} (bits : Nat) (p v : BitVec W) : BitVec W :=
  ((v <<< 1) ^^^ (if v.getLsbD (bits - 1) then p else 0)) &&& BitVec.ofNat W (2 ^ bits - 1)

/-- One round of the reflected builder (R123). -/
def reflectedRound {W : Nat} (p v : BitVec W) : BitVec W := (v >>> 1) ^^^ (if v.getLsbD 0 then p else 0)

/-- A table word, computed when it is wanted (R121, R123). -/
def tableWord {W : Nat} (bits : Nat) (reflect : Bool) (p : BitVec W) (i : Byte) : BitVec W :=
  if reflect then Nat.iterate (reflectedRound p) 8 (i.setWidth W)
  else Nat.iterate (forwardRound bits p) 8 (i.setWidth W <<< (bits - 8))

/-- One bit of the bit-serial rule (R154): the tested bit and the input bit together decide the XOR. -/
def bitStep {W : Nat} (bits : Nat) (poly sum : BitVec W) (input : Bool) : BitVec W :=
  (sum <<< 1) ^^^ (if Bool.xor (sum.getLsbD (bits - 1)) input then poly else 0)

/-- The bit-serial rule on the eight bits of a byte, bit 7 first (R154). -/
def bitSerial {W : Nat} (bits : Nat) (poly sum : BitVec W) (n : Byte) : BitVec W :=
  (List.range 8).foldl (fun v k => bitStep bits poly v (n.getLsbD (7 - k))) sum

/-- DIGEST with rules b, c and d alone, which R155 allows: `poly` is the register's value (R135). -/
def digest {W : Nat} (bits : Nat) (reflect : Bool) (poly sum : BitVec W) (byte : Byte) : BitVec W :=
  if bits % 8 = 0 then
    if reflect then (sum >>> 8) ^^^ tableWord bits true poly (sum.setWidth 8 ^^^ byte)
    else (sum <<< 8) ^^^ tableWord bits false poly ((sum >>> (bits - 8)).setWidth 8 ^^^ byte)
  else bitSerial bits poly sum (if reflect then byte.reverse else byte)

/-- `raw_value()` (R175): the low `bits` bits of the turned register XOR `final_xor`. -/
def rawValue {W : Nat} (bits : Nat) (reflect : Bool) (sum finalXor : BitVec W) : BitVec W :=
  ((if bits % 8 ≠ 0 ∧ reflect = true then reverseLow bits sum else sum) ^^^ finalXor)
    &&& BitVec.ofNat W (2 ^ bits - 1)

end Sys2Proof.WidthIndexed
end

