-- ==== Sys2Proof/Certificates/Slice0/Obligations.lean ====
section
/-! DEFINITION. The statements for the provers. Each docstring names the rule of spec/ it formalises. -/

open Sys2Proof Sys2Proof.Machine

/-! ### Encoding (spec/30_encoding.md) -/

/-- Decode and encode agree on every command, every operand at every value its field admits. -/
def Obligations.DecodeOfEncodeIsTheCommand : Prop :=
  ∀ i : Instr, i.wellFormed = true → decode (encode i) = .command i

/-- Every command has one word: the word a command was read from is the command's encoding. -/
def Obligations.EncodeOfDecodeIsTheWord : Prop :=
  ∀ (w : Command) (i : Instr), decode w = .command i → encode i = w

/-- R88, R92: a word is illegal exactly when it matches no row of the opcode map, and a word that is a command matches
exactly one row, that command's. -/
def Obligations.EveryWordHasExactlyOneVerdict : Prop :=
  ∀ w : Command,
    ((∃ why, decode w = .illegal why) ↔ opcodeMap.filter (fun r => r.covers w) = []) ∧
    ∀ i, decode w = .command i → (opcodeMap.filter fun r => r.covers w).map OpcodeRow.mnemonic = [i.mnemonic]

/-- The words of spec/95_test_vectors.md and of the worked examples decode to the commands they stand for, and R91's
example words are illegal. -/
def Obligations.SpecWordsDecodeAsTheSpecSays : Prop :=
  decode 0x1120 = .command (.create false true 32) ∧ decode 0x120C = .command (.create true false 12) ∧
  decode 0x13FF = .command (.create true true 255) ∧ decode 0x2031 = .command (.digest 0x31) ∧
  decode 0x3000 = .command .reset ∧ decode 0x4000 = .command .getcrc ∧ decode 0x5000 = .command .getbytesBe ∧
  decode 0x5100 = .command .getbytesLe ∧
  ∀ w ∈ ([0x0000, 0xFFFF, 0x6000, 0x3001, 0x4100, 0x2131, 0x5200, 0x1408, 0x5001, 0x1808] : List Command),
    ∃ why, decode w = .illegal why

/-- R84 to R87: the word of each command, as the formats give it. -/
def Obligations.EncodingsFollowTheFormats : Prop :=
  (∀ (reorder reflect : Bool) (bits : Byte), encode (.create reorder reflect bits) =
    0x1000 ||| ((BitVec.ofBool reorder).setWidth 16 <<< 9) ||| ((BitVec.ofBool reflect).setWidth 16 <<< 8)
      ||| bits.setWidth 16) ∧
  (∀ byte : Byte, encode (.digest byte) = 0x2000 ||| byte.setWidth 16) ∧
  encode .reset = 0x3000 ∧ encode .getcrc = 0x4000 ∧ encode .getbytesBe = 0x5000 ∧ encode .getbytesLe = 0x5100

/-- R90: an accepted word whose `op` is 0x0 or 0x6 to 0xF raises IllegalCommand, in UNCONFIGURED and READY alike, and
nothing but the status and the port changes. -/
def Obligations.UnknownOpcodeRaisesIllegalCommand : Prop :=
  ∀ (s : State) (r : Request) (rest : List HostEvent), s.state ≠ .fault → s.events = .command r :: rest →
    (r.cmd.toNat / 2 ^ 12 = 0 ∨ 6 ≤ r.cmd.toNat / 2 ^ 12) →
    step s = .next { s with
      events := rest, port := r, state := .fault, faultCode := .illegalCommand, faultInfo := r.cmd, rsp := none }

/-- R91: an accepted word with a legal `op` and a non-zero bit in a must-be-zero position raises IllegalCommand; it is
not executed with the bit ignored. -/
def Obligations.ReservedBitRaisesIllegalCommand : Prop :=
  ∀ (s : State) (r : Request) (rest : List HostEvent), s.state ≠ .fault → s.events = .command r :: rest →
    (let op := r.cmd.toNat / 2 ^ 12
     1 ≤ op ∧ op ≤ 5 ∧
      (r.cmd.getLsbD 11 = true ∨ r.cmd.getLsbD 10 = true ∨ (op ≠ 1 ∧ r.cmd.getLsbD 9 = true) ∨
        ((op = 2 ∨ op = 3 ∨ op = 4) ∧ r.cmd.getLsbD 8 = true) ∨
        ((op = 3 ∨ op = 4 ∨ op = 5) ∧ r.cmd.toNat % 2 ^ 8 ≠ 0))) →
    step s = .next { s with
      events := rest, port := r, state := .fault, faultCode := .illegalCommand, faultInfo := r.cmd, rsp := none }

/-- R94: the pseudo-commands expand to the commands the rule lists. -/
def Obligations.PseudoCommandsExpand : Prop :=
  (∀ bs : List Byte, (digestBytes bs).map decode = bs.map fun b => .command (.digest b)) ∧
  digestBytes [] = [] ∧
  (∀ text : String, (digestString text).map decode =
    text.toList.map fun c => .command (.digest (BitVec.ofNat 8 c.toNat))) ∧
  digestString "123456789" = [0x2031, 0x2032, 0x2033, 0x2034, 0x2035, 0x2036, 0x2037, 0x2038, 0x2039] ∧
  decode (getbytes false) = .command .getbytesBe ∧ decode (getbytes true) = .command .getbytesLe

/-! ### The step, the command port, faults and power-on reset -/

/-- A step runs the decoded command: taking the event off the host's list and sampling the port is all a step adds. -/
def Obligations.StepRunsTheDecodedCommand : Prop :=
  ∀ (s : State) (r : Request) (rest : List HostEvent) (i : Instr), s.state ≠ .fault → s.events = .command r :: rest →
    decode r.cmd = .command i → step s = exec i { s with events := rest, port := r }

/-- Every step completes and takes one event off the host's list, so no step stops the machine (R197, R216); with no
event pending nothing happens (R82, R217). That a command which is not accepted in FAULT leaves the host's list too is
the model's choice (log entry 6), and so is the list itself (log entry 4). -/
def Obligations.EveryStepCompletes : Prop :=
  ∀ s : State, ∃ t, step s = .next t ∧ t.events = s.events.tail ∧ (s.events = [] → t = s)

/-- R41, R210: what reset leaves, in the values the spec gives. -/
def Obligations.ResetIsUnconfiguredWithoutFault : Prop :=
  State.reset.stState = 0 ∧ State.reset.stFault = 0 ∧ State.reset.stInfo = 0 ∧ State.reset.cmdReady = true ∧
  State.reset.rsp = none

/-- R210: power-on reset in any state. What it makes unspecified is named by no clause. -/
def Obligations.PowerOnResetInAnyState : Prop :=
  ∀ (s : State) (rest : List HostEvent), s.events = .por :: rest →
    ∃ t, step s = .next t ∧ t.state = .unconfigured ∧ t.faultCode = .noFault ∧ t.faultInfo = 0 ∧ t.cmdReady = true ∧
      t.rsp = none ∧ t.events = rest ∧ t.port = s.port ∧ t.responses = s.responses

/-- R97, R195: the checks on an accepted word, in order: decode, state, range. One outcome a word. -/
def Obligations.ChecksRunInOrder : Prop :=
  ∀ (s : State) (r : Request) (rest : List HostEvent), s.state ≠ .fault → s.events = .command r :: rest →
    ∃ t, step s = .next t ∧
      (t.state, t.faultCode) =
        match decode r.cmd with
        | .illegal _ => (EngineState.fault, FaultCode.illegalCommand)
        | .command i =>
          if i.isCreate = false ∧ s.state = .unconfigured then (.fault, .notConfigured)
          else
            match i with
            | .create _ _ bits => if bits.toNat = 0 ∨ 64 < bits.toNat then (.fault, .configFault) else (.ready, s.faultCode)
            | _ => (.ready, s.faultCode)

/-- R192: a legal command other than CREATE in UNCONFIGURED raises NotConfigured, and nothing else changes. -/
def Obligations.CommandsBeforeCreateRaiseNotConfigured : Prop :=
  ∀ (s : State) (i : Instr), i.isCreate = false → s.state = .unconfigured →
    exec i s = .next { s with
      state := .fault, faultCode := .notConfigured, faultInfo := s.port.cmd, rsp := none }

/-- R130, R190: a CREATE whose `bits` is 0 or above 64 raises ConfigFault and writes no configuration. -/
def Obligations.BadBitsRaiseConfigFault : Prop :=
  ∀ (s : State) (reorder reflect : Bool) (bits : Byte), s.state ≠ .fault → (bits.toNat = 0 ∨ 64 < bits.toNat) →
    exec (.create reorder reflect bits) s = .next { s with
      state := .fault, faultCode := .configFault, faultInfo := s.port.cmd, rsp := none }

/-- R193: fault entry. Whatever step takes the engine into FAULT took an accepted command, shows a fault code and that
command's word, drives no response, lowers `cmd_ready`, and changes nothing else; and `cmd_ready` stays low for as long
as no power-on reset comes. -/
def Obligations.FaultEntryWritesOnlyTheStatus : Prop :=
  ∀ s t : State, s.state ≠ .fault → step s = .next t → t.state = .fault →
    t.faultCode ≠ .noFault ∧ t.cmdReady = false ∧
    (∀ n, noPor t.events = true → ∃ u, runSteps n t = .next u ∧ u.cmdReady = false) ∧
    ∃ r rest, s.events = .command r :: rest ∧
      t = { s with
        events := rest, port := r, state := .fault, faultCode := t.faultCode, faultInfo := r.cmd, rsp := none }

/-- R196: in FAULT no command is accepted, whatever its word, and only POR leaves it: however long the run, without a
POR nothing but the host's list changes, and the first fault stays recorded. (That a command which is not accepted
leaves the host's list is the model's choice, log entry 6.) -/
def Obligations.FaultLastsUntilPowerOnReset : Prop :=
  (∀ (s : State) (r : Request) (rest : List HostEvent), s.state = .fault → s.events = .command r :: rest →
    step s = .next { s with events := rest }) ∧
  (∀ (i : Instr) (s : State), s.state = .fault → exec i s = .next s) ∧
  (∀ (n : Nat) (s : State), s.state = .fault → noPor s.events = true →
    runSteps n s = .next { s with events := s.events.drop n }) ∧
  ∀ s t : State, s.state = .fault → step s = .next t → t.state ≠ .fault → ∃ rest, s.events = .por :: rest

/-- R33, R34, R190: the fault record explains itself, and every step keeps it so. -/
def Obligations.StepKeepsTheFaultRecord : Prop :=
  ∀ s t : State, s.FaultRecord → step s = .next t → t.FaultRecord

/-- R95: a response comes from a read accepted in READY and from nothing else. -/
def Obligations.OnlyReadsRespond : Prop :=
  ∀ (s t : State) (r : Request) (rest : List HostEvent), s.state ≠ .fault → s.events = .command r :: rest →
    step s = .next t →
    if s.state = .ready ∧
        (decode r.cmd = .command .getcrc ∨ decode r.cmd = .command .getbytesBe ∨ decode r.cmd = .command .getbytesLe)
    then ∃ x, t.rsp = some x ∧ t.responses = s.responses ++ [x]
    else t.rsp = none ∧ t.responses = s.responses

/-! ### The bit-reflection unit (spec/40_bit_reflector.md) -/

/-- R110: the closed form of `reflect_bits` for every width 1 to 64. -/
def Obligations.ReflectionClosedForm : Prop :=
  ∀ (b : Nat) (n : Word), 1 ≤ b → b ≤ 64 → ∀ k,
    (reflectBits (BitVec.ofNat 64 (2 ^ (b - 1))) n).getLsbD k = (decide (k < b) && n.getLsbD (b - 1 - k))

/-- R111: the corner cases of `reflect_bits`. -/
def Obligations.ReflectionCornerCases : Prop :=
  (∀ (b : Nat) (n m : Word), 1 ≤ b → b ≤ 64 →
    let h := BitVec.ofNat 64 (2 ^ (b - 1))
    (reflectBits h n).toNat < 2 ^ b ∧
    (n.toNat % 2 ^ b = m.toNat % 2 ^ b → reflectBits h n = reflectBits h m) ∧
    (reflectBits h (reflectBits h n)).toNat = n.toNat % 2 ^ b ∧
    reflectBits h (n ^^^ m) = reflectBits h n ^^^ reflectBits h m ∧
    reflectBits h 0 = 0 ∧ reflectBits h (BitVec.ofNat 64 (2 ^ b - 1)) = BitVec.ofNat 64 (2 ^ b - 1)) ∧
  (∀ n : Word, reflectBits 1 n = n &&& 1) ∧
  reflectBits 0x10 0xF4 = 0x05 ∧ reflectBits 0x10 0x14 = 0x05 ∧ reflectBits 0x8000000000000000 1 = 0x8000000000000000

/-- R113: the worked examples of `reflect_bits`. -/
def Obligations.ReflectionWorkedExamples : Prop :=
  reflectBits 0x80 0x01 = 0x80 ∧ reflectBits 0x80 0x31 = 0x8C ∧ reflectBits 0x80 0xA5 = 0xA5 ∧
  reflectBits 0x10 0x14 = 0x05 ∧ reflectBits 0x10 0x1F = 0x1F ∧ reflectBits 0x800 0xABC = 0x3D5 ∧
  reflectBits 0x8000 0x1021 = 0x8408 ∧ reflectBits 0x8000 0x1D0F = 0xF0B8 ∧
  reflectBits 0x80000000 0x04C11DB7 = 0xEDB88320 ∧
  reflectBits 0x8000000000000000 0x42F0E1EBA9EA3693 = 0xC96C5795D7870F42

/-! ### The table builder (spec/41_table_builder.md) -/

/-- R121, R124: every forward table word is below `2^bits`, and every reflected one when the polynomial word is. -/
def Obligations.TableWordsFitTheCrcWidth : Prop :=
  ∀ (p : Word) (bits i : Nat), 1 ≤ bits → bits ≤ 64 → bits % 8 = 0 → i < 256 →
    (forwardWord (widthSelect bits) p bits i).toNat < 2 ^ bits ∧
    (p.toNat < 2 ^ bits → (reflectedWord p i).toNat < 2 ^ bits)

/-- R125: the laws of both tables: word 0 is 0, words are linear over XOR, forward `tbl[1] = P & mask`, reflected
`tbl[0x80] = P`. -/
def Obligations.TableLaws : Prop :=
  ∀ (p : Word) (bits : Nat), 1 ≤ bits → bits ≤ 64 → bits % 8 = 0 →
    let w := widthSelect bits
    forwardWord w p bits 0 = 0 ∧ reflectedWord p 0 = 0 ∧
    (forwardWord w p bits 1).toNat = p.toNat % 2 ^ bits ∧ reflectedWord p 0x80 = p ∧
    ∀ a b : Byte,
      forwardWord w p bits (a ^^^ b).toNat = forwardWord w p bits a.toNat ^^^ forwardWord w p bits b.toNat ∧
      reflectedWord p (a ^^^ b).toNat = reflectedWord p a.toNat ^^^ reflectedWord p b.toNat

/-! ### CREATE (spec/42_create.md) -/

/-- R131: the width selector and its consequences. -/
def Obligations.WidthSelectorIsTheNarrowest : Prop :=
  ∀ bits : Nat, 1 ≤ bits → bits ≤ 64 →
    (bits ≤ 8 → widthSelect bits = 8) ∧ (9 ≤ bits → bits ≤ 16 → widthSelect bits = 16) ∧
    (17 ≤ bits → bits ≤ 32 → widthSelect bits = 32) ∧ (33 ≤ bits → widthSelect bits = 64) ∧
    bits ≤ widthSelect bits ∧ (∀ w ∈ [8, 16, 32, 64], bits ≤ w → widthSelect bits ≤ w) ∧
    (bits = widthSelect bits ↔ bits ∈ [8, 16, 32, 64]) ∧
    (bits % 8 = 0 → bits < widthSelect bits → bits ∈ [24, 40, 48, 56]) ∧
    (bits % 8 ≠ 0 → bits < widthSelect bits)

/-- R130 to R136: what a CREATE with `bits` in 1 to 64 writes, from UNCONFIGURED and from READY alike, and what it leaves
alone. -/
def Obligations.CreateConfiguresTheEngine : Prop :=
  ∀ (s : State) (reorder reflect : Bool) (bits : Byte), s.state ≠ .fault → 1 ≤ bits.toNat → bits.toNat ≤ 64 →
    let n := bits.toNat
    let w := if n ≤ 8 then 8 else if n ≤ 16 then 16 else if n ≤ 32 then 32 else 64
    let p := BitVec.ofNat 64 (s.port.pPoly.toNat % 2 ^ w)
    let init := BitVec.ofNat 64 (s.port.pInit.toNat % 2 ^ w)
    let high := BitVec.ofNat 64 (2 ^ (n - 1))
    ∃ t, exec (.create reorder reflect bits) s = .next t ∧
      t.state = .ready ∧ t.width = w ∧ t.bits = bits ∧ t.reflect = reflect ∧ t.reorder = reorder ∧
      (t.byTable = true ↔ n % 8 = 0) ∧ t.highBit = high ∧ t.mask = BitVec.ofNat 64 (2 ^ n - 1) ∧
      t.initial = init ∧ t.finalXor = BitVec.ofNat 64 (s.port.pXor.toNat % 2 ^ w) ∧
      t.poly = (if n % 8 ≠ 0 ∧ reflect = true then reflectBits high p else p) ∧
      t.sum = (if reflect then reflectBits high init else init) ∧
      (n % 8 = 0 → ∀ i : Byte,
        t.tblWord i = if reflect then reflectedWord p i.toNat else forwardWord w p n i.toNat) ∧
      t.rsp = none ∧ t.responses = s.responses ∧ t.events = s.events ∧ t.port = s.port ∧
      t.faultCode = s.faultCode ∧ t.faultInfo = s.faultInfo

/-- R138: CREATE is a complete reconfiguration: two states with the same port signals are configured alike, whatever
they held before. -/
def Obligations.CreateForgetsTheEarlierConfiguration : Prop :=
  ∀ (s s' t t' : State) (reorder reflect : Bool) (bits : Byte), s.state ≠ .fault → s'.state ≠ .fault →
    1 ≤ bits.toNat → bits.toNat ≤ 64 → s'.port = s.port →
    exec (.create reorder reflect bits) s = .next t → exec (.create reorder reflect bits) s' = .next t' →
    t.SameRegisters t' ∧ t'.state = t.state ∧ (t.byTable = true → ∀ i, t'.tblWord i = t.tblWord i)

/-- R139: bus bits outside the domain. Two CREATEs whose buses agree on the low `bits` bits of `p_init` and `p_xor`, and
of `p_poly` (in reflected table mode: on the low `W` bits of `p_poly`), leave states the host cannot tell apart. -/
def Obligations.OutOfDomainBusBitsNeverShow : Prop :=
  ∀ (s t t' : State) (r r' : Request) (reorder reflect : Bool) (bits : Byte), s.state ≠ .fault → r'.cmd = r.cmd →
    1 ≤ bits.toNat → bits.toNat ≤ 64 →
    r'.pInit.toNat % 2 ^ bits.toNat = r.pInit.toNat % 2 ^ bits.toNat →
    r'.pXor.toNat % 2 ^ bits.toNat = r.pXor.toNat % 2 ^ bits.toNat →
    r'.pPoly.toNat % 2 ^ bits.toNat = r.pPoly.toNat % 2 ^ bits.toNat →
    (bits.toNat % 8 = 0 → reflect = true →
      r'.pPoly.toNat % 2 ^ widthSelect bits.toNat = r.pPoly.toNat % 2 ^ widthSelect bits.toNat) →
    exec (.create reorder reflect bits) { s with port := r } = .next t →
    exec (.create reorder reflect bits) { s with port := r' } = .next t' → t.Indist t'

/-- R212 with R138 and R210: power-on reset and then a CREATE in range give the same configuration from every state. -/
def Obligations.StartUpForgetsEverything : Prop :=
  ∀ (s : State) (r : Request) (rest : List HostEvent) (reorder reflect : Bool) (bits : Byte),
    s.events = .por :: .command r :: rest → decode r.cmd = .command (.create reorder reflect bits) →
    1 ≤ bits.toNat → bits.toNat ≤ 64 →
    ∃ t u, runSteps 2 s = .next t ∧ exec (.create reorder reflect bits) { State.reset with port := r } = .next u ∧
      t.state = .ready ∧ t.faultCode = .noFault ∧ t.events = rest ∧ u.SameRegisters t ∧
      (u.byTable = true → ∀ i, t.tblWord i = u.tblWord i)

/-! ### DIGEST (spec/43_digest.md) -/

/-- R151: rule a, for `bits = 8` in table mode, with `reflect` 0 or 1. -/
def Obligations.DigestByRuleA : Prop :=
  ∀ (s : State) (byte : Byte), s.Inv → s.state = .ready → s.byTable = true → s.bits = 8 →
    exec (.digest byte) s = .next { s with sum := s.tblWord (s.sum.setWidth 8 ^^^ byte), rsp := none }

/-- R152: rule b, for the other table widths with `reflect = 1`. -/
def Obligations.DigestByRuleB : Prop :=
  ∀ (s : State) (byte : Byte), s.Inv → s.state = .ready → s.byTable = true → s.bits ≠ 8 → s.reflect = true →
    exec (.digest byte) s = .next { s with
      sum := BitVec.ofNat 64 (s.sum.toNat / 2 ^ 8) ^^^ s.tblWord (BitVec.ofNat 8 (s.sum.toNat % 2 ^ 8) ^^^ byte),
      rsp := none }

/-- R153: rule c, for the other table widths with `reflect = 0`. -/
def Obligations.DigestByRuleC : Prop :=
  ∀ (s : State) (byte : Byte), s.Inv → s.state = .ready → s.byTable = true → s.bits ≠ 8 → s.reflect = false →
    exec (.digest byte) s = .next { s with
      sum := BitVec.ofNat 64 (s.sum.toNat * 2 ^ 8 % 2 ^ s.width) ^^^
        s.tblWord (BitVec.ofNat 8 (s.sum.toNat / 2 ^ (s.bits.toNat - 8) % 2 ^ 8) ^^^ byte),
      rsp := none }

/-- R154, R158: rule d, for the widths that are no multiple of 8: test bit `bits-1` of the unshifted register, shift,
toggle the flag by the input bit, XOR with `poly` after the shift; bit 7 of the (possibly reversed) byte first. -/
def Obligations.DigestByRuleD : Prop :=
  ∀ (s : State) (byte : Byte), s.Inv → s.state = .ready → s.byTable = false →
    let n := if s.reflect then byte.reverse else byte
    exec (.digest byte) s = .next { s with
      sum := (List.range 8).foldl
        (fun v k =>
          let shifted := BitVec.ofNat 64 (v.toNat * 2 % 2 ^ s.width)
          if Bool.xor (v.getLsbD (s.bits.toNat - 1)) (n.getLsbD (7 - k)) then shifted ^^^ s.poly else shifted)
        s.sum,
      rsp := none }

/-- R155: at `bits = 8` rule a is what rules b and c give under truncation to `W` bits. -/
def Obligations.RuleAIsRulesBAndCAtEightBits : Prop :=
  ∀ (s : State) (byte : Byte), s.Inv → s.state = .ready → s.bits = 8 →
    ruleB byte s = ruleA byte s ∧ narrow s.width (ruleC byte s) = ruleA byte s

/-- R156: a byte sequence is its DIGEST commands in order, and digesting them is folding the one-byte effect; the
configuration and the record of responses stay. -/
def Obligations.ByteSequenceIsDigestedInOrder : Prop :=
  ∀ (s : State) (bytes : List Byte) (buses : Request) (rest : List HostEvent), s.state = .ready →
    s.events = presentAll buses (digestBytes bytes) ++ rest →
    ∃ t, runSteps bytes.length s = .next t ∧ t.state = .ready ∧ t.events = rest ∧ s.SameConfig t ∧
      t.responses = s.responses ∧ t.sum = (bytes.foldl (fun u b => digestEffect b u) s).sum

/-- R160 for `reflect = 0`: over any byte sequence the table rules and the bit-serial rule d with the same polynomial
word keep the same significant bits of the register. -/
def Obligations.ForwardTableAgreesWithBitSerial : Prop :=
  ∀ (s : State) (bytes : List Byte), s.Inv → s.state = .ready → s.byTable = true → s.reflect = false →
    (bytes.foldl (fun u b => digestEffect b u) s).sum &&& s.mask =
      bytes.foldl (fun v b => bitSerial s.width s.highBit s.poly b v) s.sum &&& s.mask

/-- R160 for `reflect = 1` and an in-domain polynomial word: the table register is the bit reversal of a bit-serial
register that runs on the reversed polynomial and the reversed bytes, when it starts so. -/
def Obligations.ReflectedTableMirrorsBitSerial : Prop :=
  ∀ (s : State) (d : Word) (bytes : List Byte), s.Inv → s.state = .ready → s.byTable = true → s.reflect = true →
    s.poly.toNat < 2 ^ s.bits.toNat → reflectBits s.highBit d = s.sum →
    (bytes.foldl (fun u b => digestEffect b u) s).sum =
      reflectBits s.highBit
        (bytes.foldl (fun v b => bitSerial s.width s.highBit (reflectBits s.highBit s.poly) (reflectByte b) v) d)

/-- R27, R125, R155: the 64-bit cells with their stored table compute, on the low `W` bits, what the engine over a type
indexed by `W` with no stored table computes. -/
def Obligations.CellsRefineTheWidthIndexedEngine : Prop :=
  ∀ (s : State) (byte : Byte), s.Inv → s.state = .ready →
    (∃ t, exec (.digest byte) s = .next t ∧ t.sum.toNat < 2 ^ s.width ∧
      t.sum.setWidth s.width =
        WidthIndexed.digest s.bits.toNat s.reflect (s.poly.setWidth s.width) (s.sum.setWidth s.width) byte) ∧
    (∃ t, exec .reset s = .next t ∧ t.sum.toNat < 2 ^ s.width ∧
      t.sum.setWidth s.width = WidthIndexed.seed s.bits.toNat s.reflect (s.initial.setWidth s.width)) ∧
    s.rawValue.toNat < 2 ^ s.width ∧
    s.rawValue.setWidth s.width =
      WidthIndexed.rawValue s.bits.toNat s.reflect (s.sum.setWidth s.width) (s.finalXor.setWidth s.width)

/-! ### RESET (spec/44_reset_cmd.md) -/

/-- R170: RESET installs the working form of `initial` and writes nothing else. -/
def Obligations.ResetInstallsTheWorkingForm : Prop :=
  ∀ s : State, s.Inv → s.state = .ready →
    exec .reset s = .next { s with
      sum := if s.reflect then reflectBits s.highBit s.initial else s.initial, rsp := none }

/-- R171: after a CREATE and any commands but CREATE, RESET gives back exactly the registers and the table the CREATE
left. -/
def Obligations.ResetEquivalence : Prop :=
  ∀ (s t u : State) (reorder reflect : Bool) (bits : Byte) (is : List Instr), s.state ≠ .fault →
    1 ≤ bits.toNat → bits.toNat ≤ 64 → exec (.create reorder reflect bits) s = .next t →
    (∀ i ∈ is, i.isCreate = false) → execAll is t = .next u →
    ∃ v, exec .reset u = .next v ∧ v.state = .ready ∧ v.sum = t.sum ∧ t.SameConfig v

/-! ### The output formatter (spec/45_output_formatter.md) -/

/-- R175, R176, R177: the GETCRC response, bit by bit and byte by byte, and that nothing else is written. -/
def Obligations.GetcrcRespondsTheCrcValue : Prop :=
  ∀ s : State, s.Inv → s.state = .ready →
    let n := s.bits.toNat
    let len := (n + 7) / 8
    ∃ raw v : Word,
      (∀ k, raw.getLsbD k = (decide (k < n) &&
        Bool.xor (if s.byTable = false ∧ s.reflect = true then s.sum.getLsbD (n - 1 - k) else s.sum.getLsbD k)
          (s.finalXor.getLsbD k))) ∧
      (s.reorder = false → v = raw) ∧
      (s.reorder = true → ∀ k < 8,
        (v >>> (8 * k)).setWidth 8 = if k < len then (raw >>> (8 * (len - 1 - k))).setWidth 8 else (0 : Byte)) ∧
      exec .getcrc s = .next { s with rsp := some ⟨v, 0⟩, responses := s.responses ++ [⟨v, 0⟩] }

/-- R182: GETBYTES.BE responds the `ceil(bits/8)` bytes of GETCRC's value, most significant first, and writes nothing. -/
def Obligations.GetbytesBeRespondsTheBytes : Prop :=
  ∀ s : State, s.Inv → s.state = .ready →
    let len := (s.bits.toNat + 7) / 8
    ∃ (c : State) (crc v : Word), exec .getcrc s = .next c ∧ c.rsp = some ⟨crc, 0⟩ ∧
      (∀ k < 8, (v >>> (8 * k)).setWidth 8 =
        if k < len then (crc >>> (8 * (len - 1 - k))).setWidth 8 else (0 : Byte)) ∧
      exec .getbytesBe s = .next { s with
        rsp := some ⟨v, BitVec.ofNat 4 len⟩, responses := s.responses ++ [⟨v, BitVec.ofNat 4 len⟩] }

/-- R183: GETBYTES.LE responds the same bytes, least significant first: `rsp_value` is GETCRC's value itself. -/
def Obligations.GetbytesLeRespondsTheBytes : Prop :=
  ∀ s : State, s.Inv → s.state = .ready →
    let len := (s.bits.toNat + 7) / 8
    ∃ (c : State) (crc : Word), exec .getcrc s = .next c ∧ c.rsp = some ⟨crc, 0⟩ ∧
      exec .getbytesLe s = .next { s with
        rsp := some ⟨crc, BitVec.ofNat 4 len⟩, responses := s.responses ++ [⟨crc, BitVec.ofNat 4 len⟩] }

/-- R184: the two byte sequences are reversals of each other, and each decodes back to the GETCRC response. -/
def Obligations.EndianRoundTrip : Prop :=
  ∀ s : State, s.Inv → s.state = .ready →
    ∃ m : List Byte, m.length = (s.bits.toNat + 7) / 8 ∧
      exec .getbytesBe s = .next (s.respondBytes m) ∧ exec .getbytesLe s = .next (s.respondBytes m.reverse) ∧
      exec .getcrc s = .next (s.respond (BitVec.ofNat 64 (m.foldl (fun a b => a * 256 + b.toNat) 0)))

/-- R185: `reorder` and the endianness cancel in pairs, for every `bits`. -/
def Obligations.ReorderCancelsEndianness : Prop :=
  ∀ s : State, s.Inv → s.state = .ready →
    let plain := { s with reorder := false }
    let swapped := { s with reorder := true }
    ∃ m : List Byte, m.length = (s.bits.toNat + 7) / 8 ∧
      exec .getbytesBe swapped = .next (swapped.respondBytes m) ∧
      exec .getbytesLe plain = .next (plain.respondBytes m) ∧
      exec .getbytesLe swapped = .next (swapped.respondBytes m.reverse) ∧
      exec .getbytesBe plain = .next (plain.respondBytes m.reverse)

/-- R179: the significant bits of the GETCRC response, and that with `reorder` they can pass `2^bits`. -/
def Obligations.GetcrcResponseBounds : Prop :=
  (∀ s t : State, s.Inv → s.state = .ready → exec .getcrc s = .next t →
    ∃ r, t.rsp = some r ∧ r.value.toNat < 2 ^ (8 * ((s.bits.toNat + 7) / 8)) ∧
      (s.reorder = false ∨ s.bits.toNat % 8 = 0 → r.value.toNat < 2 ^ s.bits.toNat)) ∧
  ∃ s t r, s.Inv ∧ s.state = .ready ∧ s.bits = 12 ∧ s.rawValue = 0xF5B ∧ exec .getcrc s = .next t ∧
    t.rsp = some r ∧ r.value = 0x5B0F

/-- R178: a read is idempotent and does not disturb the computation: read again, the response is the same, and a DIGEST
after it gives the register it would have given without it. -/
def Obligations.ReadsDoNotDisturbTheComputation : Prop :=
  ∀ (s t : State) (i : Instr) (byte : Byte), i ∈ [Instr.getcrc, .getbytesBe, .getbytesLe] → s.state = .ready →
    exec i s = .next t →
    (∃ u, exec i t = .next u ∧ u.rsp = t.rsp) ∧
    ∃ u v, exec (.digest byte) s = .next u ∧ exec (.digest byte) t = .next v ∧ u.SameRegisters v ∧ u.SameConfig v

/-- R186 (3): the value read directly after a RESET, in the three modes, with `reorder = 0`. -/
def Obligations.ValueOfTheEmptyMessage : Prop :=
  ∀ s t u : State, s.Inv → s.state = .ready → s.reorder = false → exec .reset s = .next t → exec .getcrc t = .next u →
    ∃ r, u.rsp = some r ∧
      r.value =
        if s.reflect = false then (s.initial ^^^ s.finalXor) &&& s.mask
        else if s.byTable = true then (reflectBits s.highBit s.initial ^^^ s.finalXor) &&& s.mask
        else ((s.initial &&& s.mask) ^^^ s.finalXor) &&& s.mask

/-! ### Frames and who writes what (spec/10_state.md R37) -/

/-- What CREATE leaves unchanged, in every state and for every `bits`. -/
def Obligations.FrameOfCreate : Prop :=
  ∀ (s t : State) (reorder reflect : Bool) (bits : Byte), exec (.create reorder reflect bits) s = .next t →
    t.port = s.port ∧ t.events = s.events ∧ t.responses = s.responses ∧
    (t.state = .ready → t.faultCode = s.faultCode ∧ t.faultInfo = s.faultInfo) ∧
    (t.state = .fault → s.SameRegisters t ∧ ∀ i, t.tblWord i = s.tblWord i)

/-- R37: DIGEST and RESET write `sum` only: every other register, every table word, the host's list and record and the
port signals stay; in READY the status stays, and outside READY `sum` stays as well. -/
def Obligations.FrameOfDigestAndReset : Prop :=
  ∀ (s t : State) (i : Instr), (i = .reset ∨ ∃ byte, i = .digest byte) → exec i s = .next t →
    s.SameConfig t ∧ t.port = s.port ∧ t.events = s.events ∧ t.responses = s.responses ∧
    (s.state = .ready → t.state = s.state ∧ t.faultCode = s.faultCode ∧ t.faultInfo = s.faultInfo ∧ t.rsp = none) ∧
    (s.state ≠ .ready → t.sum = s.sum)

/-- R37: GETCRC and GETBYTES write nothing: every register and every table word stays, in READY the status too, and
the response port and the host's record alone change. -/
def Obligations.FrameOfTheReads : Prop :=
  ∀ (s t : State) (i : Instr), i ∈ [Instr.getcrc, .getbytesBe, .getbytesLe] → exec i s = .next t →
    s.SameRegisters t ∧ (∀ k, t.tblWord k = s.tblWord k) ∧ t.port = s.port ∧ t.events = s.events ∧
    (s.state = .ready → t.state = s.state ∧ t.faultCode = s.faultCode ∧ t.faultInfo = s.faultInfo) ∧
    (s.state ≠ .ready → t.responses = s.responses)

/-- R29, R30, R31, R35, R37: no step but power-on reset and an accepted CREATE with `bits` in range changes a
configuration register or a table word. -/
def Obligations.OnlyCreateWritesTheConfiguration : Prop :=
  ∀ s t : State, step s = .next t →
    s.SameConfig t ∨ (∃ rest, s.events = .por :: rest) ∨
    ∃ r rest reorder reflect bits, s.events = .command r :: rest ∧ s.state ≠ .fault ∧
      decode r.cmd = .command (.create reorder reflect bits) ∧ 1 ≤ bits.toNat ∧ bits.toNat ≤ 64

/-- R21: no step but power-on reset, an accepted CREATE, and DIGEST or RESET in READY changes `sum`. -/
def Obligations.OnlyThreeCommandsWriteSum : Prop :=
  ∀ s t : State, step s = .next t →
    t.sum = s.sum ∨ (∃ rest, s.events = .por :: rest) ∨
    ∃ r rest i, s.events = .command r :: rest ∧ decode r.cmd = .command i ∧
      ((i.isCreate = true ∧ s.state ≠ .fault) ∨ (s.state = .ready ∧ (i = .reset ∨ ∃ byte, i = .digest byte)))

/-! ### Invariants, and what no run can show -/

/-- The invariants hold right after reset (which rests on the model's reset values, log entries 1 and 2). -/
def Obligations.ResetMeetsTheInvariants : Prop :=
  State.reset.Inv ∧ State.reset.FaultRecord ∧ State.reset.ReflectedInRange

/-- R27, R36, R60: every step keeps the cells within `W` bits, the table in canonical form, and in READY the
configuration consistent with `bits` and the table equal to the one its parameters determine. -/
def Obligations.StepKeepsTheInvariant : Prop :=
  ∀ s t : State, s.Inv → step s = .next t → t.Inv

/-- R39, R152: every step keeps the register of reflected table mode below `2^bits`, for an in-domain polynomial. -/
def Obligations.StepKeepsTheReflectedRange : Prop :=
  ∀ s t : State, s.Inv → s.ReflectedInRange → step s = .next t → t.ReflectedInRange

/-- R39, R41, R218: two states the host cannot tell apart stay so along every step: no unspecified value, no register
bit at `bits` and above (but for R39's exception) and no table word in bitwise mode ever reaches a response, a status
value or a choice. -/
def Obligations.HiddenStateNeverShows : Prop :=
  ∀ s t : State, s.Inv → t.Inv → s.Indist t →
    ∃ s' t', step s = .next s' ∧ step t = .next t' ∧ s'.Indist t'

/-- R218: the same over whole runs: the responses in order and the final status port values are the same. -/
def Obligations.RunsFromIndistinguishableStatesLookAlike : Prop :=
  ∀ (n : Nat) (s t : State), s.Inv → t.Inv → s.Indist t →
    ∃ s' t', runSteps n s = .next s' ∧ runSteps n t = .next t' ∧ t'.responses = s'.responses ∧
      t'.stState = s'.stState ∧ t'.stFault = s'.stFault ∧ t'.stInfo = s'.stInfo

/-- R194, R197, R218: runs that do not end well and runs that do. A run that is in FAULT with no power-on reset to come
does not end well, and neither does one that a step leads to FAULT, even if a power-on reset revives it (the model's
choice between two sentences of R218, log entry 12). A run of legal commands that begins with a CREATE, every CREATE of
it with `bits` in 1 to 64, ends well; so does such a run after a power-on reset, from any state (from FAULT: the model's
choice, log entry 12). -/
def Obligations.LegalRunsEndWellAndFaultedOnesDoNot : Prop :=
  (∀ (n : Nat) (s : State), s.state = .fault → noPor s.events = true → endedWell n s = false) ∧
  (∀ (n k : Nat) (s t : State), 1 ≤ k → k ≤ n → runSteps k s = .next t → t.state = .fault → endedWell n s = false) ∧
  ∀ (s : State) (first : Request) (rest : List Request),
    (∃ reorder reflect bits, decode first.cmd = .command (.create reorder reflect bits)) →
    (∀ r ∈ first :: rest, ∃ i, decode r.cmd = .command i ∧
      ∀ reorder reflect bits, i = .create reorder reflect bits → 1 ≤ bits.toNat ∧ bits.toNat ≤ 64) →
    (s.state ≠ .fault → s.events = .command first :: rest.map .command → endedWell (rest.length + 1) s = true) ∧
    (s.events = .por :: .command first :: rest.map .command → endedWell (rest.length + 2) s = true)
end

