-- ==== Sys2Proof/Laws/PerInstr.lean ====
section
/-! SUPPORT. The per-instruction family EncodesLegal: a command's word is the one word form its row of the opcode map
covers, with every must-be-zero bit zero. -/

namespace Sys2Proof.Laws.EncodesLegal

/-- The word of a command passes the five checks of R90 and R91. -/
def Statement (i : Instr) : Prop := wellFormedWord (encode i) = true

/-- The bits of an assembled word, field by field. -/
theorem getLsbD_wordOf (op : BitVec 4) (f1 f0 : Bool) (d : Byte) (k : Nat) :
    (wordOf op f1 f0 d).getLsbD k =
      if k < 8 then d.getLsbD k
      else if k - 8 < 1 then (BitVec.ofBool f0).getLsbD (k - 8)
      else if k - 8 - 1 < 1 then (BitVec.ofBool f1).getLsbD (k - 8 - 1)
      else if k - 8 - 1 - 1 < 2 then (0 : BitVec 2).getLsbD (k - 8 - 1 - 1)
      else op.getLsbD (k - 8 - 1 - 1 - 2) := by
  rw [wordOf, BitVec.getLsbD_append, BitVec.getLsbD_append, BitVec.getLsbD_append, BitVec.getLsbD_append]

theorem opField_wordOf (op : BitVec 4) (f1 f0 : Bool) (d : Byte) : opField (wordOf op f1 f0 d) = op := by
  apply BitVec.eq_of_getLsbD_eq
  intro k hk
  rw [opField, BitVec.getLsbD_extractLsb', getLsbD_wordOf]
  have : k = 0 ∨ k = 1 ∨ k = 2 ∨ k = 3 := by omega
  rcases this with rfl | rfl | rfl | rfl <;> simp

theorem reservedField_wordOf (op : BitVec 4) (f1 f0 : Bool) (d : Byte) : reservedField (wordOf op f1 f0 d) = 0 := by
  apply BitVec.eq_of_getLsbD_eq
  intro k hk
  rw [reservedField, BitVec.getLsbD_extractLsb', getLsbD_wordOf]
  have : k = 0 ∨ k = 1 := by omega
  rcases this with rfl | rfl <;> simp

theorem flag1_wordOf (op : BitVec 4) (f1 f0 : Bool) (d : Byte) : (wordOf op f1 f0 d).getLsbD 9 = f1 := by
  rw [getLsbD_wordOf]
  simp

theorem flag0_wordOf (op : BitVec 4) (f1 f0 : Bool) (d : Byte) : (wordOf op f1 f0 d).getLsbD 8 = f0 := by
  rw [getLsbD_wordOf]
  simp

theorem dataField_wordOf (op : BitVec 4) (f1 f0 : Bool) (d : Byte) : dataField (wordOf op f1 f0 d) = d := by
  apply BitVec.eq_of_getLsbD_eq
  intro k hk
  rw [dataField, BitVec.getLsbD_extractLsb', getLsbD_wordOf]
  simp [hk]

theorem create (reorder reflect : Bool) (bits : Byte) : Statement (.create reorder reflect bits) := by
  simp [Statement, encode, wellFormedWord, opSelects, reservedClear, flag1Clear, flag0Clear, dataClear, opField_wordOf,
    reservedField_wordOf]

theorem digest (byte : Byte) : Statement (.digest byte) := by
  simp [Statement, encode, wellFormedWord, opSelects, reservedClear, flag1Clear, flag0Clear, dataClear, opField_wordOf,
    reservedField_wordOf, flag1_wordOf, flag0_wordOf, -BitVec.getLsbD_eq_getElem]

theorem reset : Statement .reset := by
  unfold Statement
  decide

theorem getcrc : Statement .getcrc := by
  unfold Statement
  decide

theorem getbytesBe : Statement .getbytesBe := by
  unfold Statement
  decide

theorem getbytesLe : Statement .getbytesLe := by
  unfold Statement
  decide

end Sys2Proof.Laws.EncodesLegal
end

