-- ==== Sys2Proof/Laws/State.lean ====
section
/-! SUPPORT. One lemma per field per named update of the state, each true by unfolding that update once. -/

namespace Sys2Proof.Machine

/-! ### writeSum -/

@[simp] theorem writeSum_sum (s : State) (v : Word) : (s.writeSum v).sum = narrow s.width v := rfl
@[simp] theorem writeSum_poly (s : State) (v : Word) : (s.writeSum v).poly = s.poly := rfl
@[simp] theorem writeSum_initial (s : State) (v : Word) : (s.writeSum v).initial = s.initial := rfl
@[simp] theorem writeSum_finalXor (s : State) (v : Word) : (s.writeSum v).finalXor = s.finalXor := rfl
@[simp] theorem writeSum_highBit (s : State) (v : Word) : (s.writeSum v).highBit = s.highBit := rfl
@[simp] theorem writeSum_mask (s : State) (v : Word) : (s.writeSum v).mask = s.mask := rfl
@[simp] theorem writeSum_bits (s : State) (v : Word) : (s.writeSum v).bits = s.bits := rfl
@[simp] theorem writeSum_byTable (s : State) (v : Word) : (s.writeSum v).byTable = s.byTable := rfl
@[simp] theorem writeSum_reflect (s : State) (v : Word) : (s.writeSum v).reflect = s.reflect := rfl
@[simp] theorem writeSum_reorder (s : State) (v : Word) : (s.writeSum v).reorder = s.reorder := rfl
@[simp] theorem writeSum_wsel (s : State) (v : Word) : (s.writeSum v).wsel = s.wsel := rfl
@[simp] theorem writeSum_state (s : State) (v : Word) : (s.writeSum v).state = s.state := rfl
@[simp] theorem writeSum_faultCode (s : State) (v : Word) : (s.writeSum v).faultCode = s.faultCode := rfl
@[simp] theorem writeSum_faultInfo (s : State) (v : Word) : (s.writeSum v).faultInfo = s.faultInfo := rfl
@[simp] theorem writeSum_tbl (s : State) (v : Word) : (s.writeSum v).tbl = s.tbl := rfl
@[simp] theorem writeSum_port (s : State) (v : Word) : (s.writeSum v).port = s.port := rfl
@[simp] theorem writeSum_rsp (s : State) (v : Word) : (s.writeSum v).rsp = s.rsp := rfl
@[simp] theorem writeSum_responses (s : State) (v : Word) : (s.writeSum v).responses = s.responses := rfl
@[simp] theorem writeSum_events (s : State) (v : Word) : (s.writeSum v).events = s.events := rfl
@[simp] theorem writeSum_draws (s : State) (v : Word) : (s.writeSum v).draws = s.draws := rfl

/-! ### noResponse -/

@[simp] theorem noResponse_sum (s : State) : (s.noResponse).sum = s.sum := rfl
@[simp] theorem noResponse_poly (s : State) : (s.noResponse).poly = s.poly := rfl
@[simp] theorem noResponse_initial (s : State) : (s.noResponse).initial = s.initial := rfl
@[simp] theorem noResponse_finalXor (s : State) : (s.noResponse).finalXor = s.finalXor := rfl
@[simp] theorem noResponse_highBit (s : State) : (s.noResponse).highBit = s.highBit := rfl
@[simp] theorem noResponse_mask (s : State) : (s.noResponse).mask = s.mask := rfl
@[simp] theorem noResponse_bits (s : State) : (s.noResponse).bits = s.bits := rfl
@[simp] theorem noResponse_byTable (s : State) : (s.noResponse).byTable = s.byTable := rfl
@[simp] theorem noResponse_reflect (s : State) : (s.noResponse).reflect = s.reflect := rfl
@[simp] theorem noResponse_reorder (s : State) : (s.noResponse).reorder = s.reorder := rfl
@[simp] theorem noResponse_wsel (s : State) : (s.noResponse).wsel = s.wsel := rfl
@[simp] theorem noResponse_state (s : State) : (s.noResponse).state = s.state := rfl
@[simp] theorem noResponse_faultCode (s : State) : (s.noResponse).faultCode = s.faultCode := rfl
@[simp] theorem noResponse_faultInfo (s : State) : (s.noResponse).faultInfo = s.faultInfo := rfl
@[simp] theorem noResponse_tbl (s : State) : (s.noResponse).tbl = s.tbl := rfl
@[simp] theorem noResponse_port (s : State) : (s.noResponse).port = s.port := rfl
@[simp] theorem noResponse_rsp (s : State) : (s.noResponse).rsp = none := rfl
@[simp] theorem noResponse_responses (s : State) : (s.noResponse).responses = s.responses := rfl
@[simp] theorem noResponse_events (s : State) : (s.noResponse).events = s.events := rfl
@[simp] theorem noResponse_draws (s : State) : (s.noResponse).draws = s.draws := rfl

/-! ### respondWith -/

@[simp] theorem respondWith_sum (s : State) (r : Response) : (s.respondWith r).sum = s.sum := rfl
@[simp] theorem respondWith_poly (s : State) (r : Response) : (s.respondWith r).poly = s.poly := rfl
@[simp] theorem respondWith_initial (s : State) (r : Response) : (s.respondWith r).initial = s.initial := rfl
@[simp] theorem respondWith_finalXor (s : State) (r : Response) : (s.respondWith r).finalXor = s.finalXor := rfl
@[simp] theorem respondWith_highBit (s : State) (r : Response) : (s.respondWith r).highBit = s.highBit := rfl
@[simp] theorem respondWith_mask (s : State) (r : Response) : (s.respondWith r).mask = s.mask := rfl
@[simp] theorem respondWith_bits (s : State) (r : Response) : (s.respondWith r).bits = s.bits := rfl
@[simp] theorem respondWith_byTable (s : State) (r : Response) : (s.respondWith r).byTable = s.byTable := rfl
@[simp] theorem respondWith_reflect (s : State) (r : Response) : (s.respondWith r).reflect = s.reflect := rfl
@[simp] theorem respondWith_reorder (s : State) (r : Response) : (s.respondWith r).reorder = s.reorder := rfl
@[simp] theorem respondWith_wsel (s : State) (r : Response) : (s.respondWith r).wsel = s.wsel := rfl
@[simp] theorem respondWith_state (s : State) (r : Response) : (s.respondWith r).state = s.state := rfl
@[simp] theorem respondWith_faultCode (s : State) (r : Response) : (s.respondWith r).faultCode = s.faultCode := rfl
@[simp] theorem respondWith_faultInfo (s : State) (r : Response) : (s.respondWith r).faultInfo = s.faultInfo := rfl
@[simp] theorem respondWith_tbl (s : State) (r : Response) : (s.respondWith r).tbl = s.tbl := rfl
@[simp] theorem respondWith_port (s : State) (r : Response) : (s.respondWith r).port = s.port := rfl
@[simp] theorem respondWith_rsp (s : State) (r : Response) : (s.respondWith r).rsp = some r := rfl
@[simp] theorem respondWith_responses (s : State) (r : Response) : (s.respondWith r).responses = s.responses ++ [r] := rfl
@[simp] theorem respondWith_events (s : State) (r : Response) : (s.respondWith r).events = s.events := rfl
@[simp] theorem respondWith_draws (s : State) (r : Response) : (s.respondWith r).draws = s.draws := rfl

/-! ### raiseFault -/

@[simp] theorem raiseFault_sum (c : FaultCode) (s : State) : (raiseFault c s).sum = s.sum := rfl
@[simp] theorem raiseFault_poly (c : FaultCode) (s : State) : (raiseFault c s).poly = s.poly := rfl
@[simp] theorem raiseFault_initial (c : FaultCode) (s : State) : (raiseFault c s).initial = s.initial := rfl
@[simp] theorem raiseFault_finalXor (c : FaultCode) (s : State) : (raiseFault c s).finalXor = s.finalXor := rfl
@[simp] theorem raiseFault_highBit (c : FaultCode) (s : State) : (raiseFault c s).highBit = s.highBit := rfl
@[simp] theorem raiseFault_mask (c : FaultCode) (s : State) : (raiseFault c s).mask = s.mask := rfl
@[simp] theorem raiseFault_bits (c : FaultCode) (s : State) : (raiseFault c s).bits = s.bits := rfl
@[simp] theorem raiseFault_byTable (c : FaultCode) (s : State) : (raiseFault c s).byTable = s.byTable := rfl
@[simp] theorem raiseFault_reflect (c : FaultCode) (s : State) : (raiseFault c s).reflect = s.reflect := rfl
@[simp] theorem raiseFault_reorder (c : FaultCode) (s : State) : (raiseFault c s).reorder = s.reorder := rfl
@[simp] theorem raiseFault_wsel (c : FaultCode) (s : State) : (raiseFault c s).wsel = s.wsel := rfl
@[simp] theorem raiseFault_state (c : FaultCode) (s : State) : (raiseFault c s).state = .fault := rfl
@[simp] theorem raiseFault_faultCode (c : FaultCode) (s : State) : (raiseFault c s).faultCode = c := rfl
@[simp] theorem raiseFault_faultInfo (c : FaultCode) (s : State) : (raiseFault c s).faultInfo = s.port.cmd := rfl
@[simp] theorem raiseFault_tbl (c : FaultCode) (s : State) : (raiseFault c s).tbl = s.tbl := rfl
@[simp] theorem raiseFault_port (c : FaultCode) (s : State) : (raiseFault c s).port = s.port := rfl
@[simp] theorem raiseFault_rsp (c : FaultCode) (s : State) : (raiseFault c s).rsp = none := rfl
@[simp] theorem raiseFault_responses (c : FaultCode) (s : State) : (raiseFault c s).responses = s.responses := rfl
@[simp] theorem raiseFault_events (c : FaultCode) (s : State) : (raiseFault c s).events = s.events := rfl
@[simp] theorem raiseFault_draws (c : FaultCode) (s : State) : (raiseFault c s).draws = s.draws := rfl

/-! ### dropEvent -/

@[simp] theorem dropEvent_sum (s : State) : (s.dropEvent).sum = s.sum := rfl
@[simp] theorem dropEvent_poly (s : State) : (s.dropEvent).poly = s.poly := rfl
@[simp] theorem dropEvent_initial (s : State) : (s.dropEvent).initial = s.initial := rfl
@[simp] theorem dropEvent_finalXor (s : State) : (s.dropEvent).finalXor = s.finalXor := rfl
@[simp] theorem dropEvent_highBit (s : State) : (s.dropEvent).highBit = s.highBit := rfl
@[simp] theorem dropEvent_mask (s : State) : (s.dropEvent).mask = s.mask := rfl
@[simp] theorem dropEvent_bits (s : State) : (s.dropEvent).bits = s.bits := rfl
@[simp] theorem dropEvent_byTable (s : State) : (s.dropEvent).byTable = s.byTable := rfl
@[simp] theorem dropEvent_reflect (s : State) : (s.dropEvent).reflect = s.reflect := rfl
@[simp] theorem dropEvent_reorder (s : State) : (s.dropEvent).reorder = s.reorder := rfl
@[simp] theorem dropEvent_wsel (s : State) : (s.dropEvent).wsel = s.wsel := rfl
@[simp] theorem dropEvent_state (s : State) : (s.dropEvent).state = s.state := rfl
@[simp] theorem dropEvent_faultCode (s : State) : (s.dropEvent).faultCode = s.faultCode := rfl
@[simp] theorem dropEvent_faultInfo (s : State) : (s.dropEvent).faultInfo = s.faultInfo := rfl
@[simp] theorem dropEvent_tbl (s : State) : (s.dropEvent).tbl = s.tbl := rfl
@[simp] theorem dropEvent_port (s : State) : (s.dropEvent).port = s.port := rfl
@[simp] theorem dropEvent_rsp (s : State) : (s.dropEvent).rsp = s.rsp := rfl
@[simp] theorem dropEvent_responses (s : State) : (s.dropEvent).responses = s.responses := rfl
@[simp] theorem dropEvent_events (s : State) : (s.dropEvent).events = s.events.tail := rfl
@[simp] theorem dropEvent_draws (s : State) : (s.dropEvent).draws = s.draws := rfl

/-! ### sample -/

@[simp] theorem sample_sum (s : State) (r : Request) : (s.sample r).sum = s.sum := rfl
@[simp] theorem sample_poly (s : State) (r : Request) : (s.sample r).poly = s.poly := rfl
@[simp] theorem sample_initial (s : State) (r : Request) : (s.sample r).initial = s.initial := rfl
@[simp] theorem sample_finalXor (s : State) (r : Request) : (s.sample r).finalXor = s.finalXor := rfl
@[simp] theorem sample_highBit (s : State) (r : Request) : (s.sample r).highBit = s.highBit := rfl
@[simp] theorem sample_mask (s : State) (r : Request) : (s.sample r).mask = s.mask := rfl
@[simp] theorem sample_bits (s : State) (r : Request) : (s.sample r).bits = s.bits := rfl
@[simp] theorem sample_byTable (s : State) (r : Request) : (s.sample r).byTable = s.byTable := rfl
@[simp] theorem sample_reflect (s : State) (r : Request) : (s.sample r).reflect = s.reflect := rfl
@[simp] theorem sample_reorder (s : State) (r : Request) : (s.sample r).reorder = s.reorder := rfl
@[simp] theorem sample_wsel (s : State) (r : Request) : (s.sample r).wsel = s.wsel := rfl
@[simp] theorem sample_state (s : State) (r : Request) : (s.sample r).state = s.state := rfl
@[simp] theorem sample_faultCode (s : State) (r : Request) : (s.sample r).faultCode = s.faultCode := rfl
@[simp] theorem sample_faultInfo (s : State) (r : Request) : (s.sample r).faultInfo = s.faultInfo := rfl
@[simp] theorem sample_tbl (s : State) (r : Request) : (s.sample r).tbl = s.tbl := rfl
@[simp] theorem sample_port (s : State) (r : Request) : (s.sample r).port = r := rfl
@[simp] theorem sample_rsp (s : State) (r : Request) : (s.sample r).rsp = s.rsp := rfl
@[simp] theorem sample_responses (s : State) (r : Request) : (s.sample r).responses = s.responses := rfl
@[simp] theorem sample_events (s : State) (r : Request) : (s.sample r).events = s.events := rfl
@[simp] theorem sample_draws (s : State) (r : Request) : (s.sample r).draws = s.draws := rfl

/-! ### presentNext -/

@[simp] theorem presentNext_sum (s : State) (w : Command) : (s.presentNext w).sum = s.sum := rfl
@[simp] theorem presentNext_poly (s : State) (w : Command) : (s.presentNext w).poly = s.poly := rfl
@[simp] theorem presentNext_initial (s : State) (w : Command) : (s.presentNext w).initial = s.initial := rfl
@[simp] theorem presentNext_finalXor (s : State) (w : Command) : (s.presentNext w).finalXor = s.finalXor := rfl
@[simp] theorem presentNext_highBit (s : State) (w : Command) : (s.presentNext w).highBit = s.highBit := rfl
@[simp] theorem presentNext_mask (s : State) (w : Command) : (s.presentNext w).mask = s.mask := rfl
@[simp] theorem presentNext_bits (s : State) (w : Command) : (s.presentNext w).bits = s.bits := rfl
@[simp] theorem presentNext_byTable (s : State) (w : Command) : (s.presentNext w).byTable = s.byTable := rfl
@[simp] theorem presentNext_reflect (s : State) (w : Command) : (s.presentNext w).reflect = s.reflect := rfl
@[simp] theorem presentNext_reorder (s : State) (w : Command) : (s.presentNext w).reorder = s.reorder := rfl
@[simp] theorem presentNext_wsel (s : State) (w : Command) : (s.presentNext w).wsel = s.wsel := rfl
@[simp] theorem presentNext_state (s : State) (w : Command) : (s.presentNext w).state = s.state := rfl
@[simp] theorem presentNext_faultCode (s : State) (w : Command) : (s.presentNext w).faultCode = s.faultCode := rfl
@[simp] theorem presentNext_faultInfo (s : State) (w : Command) : (s.presentNext w).faultInfo = s.faultInfo := rfl
@[simp] theorem presentNext_tbl (s : State) (w : Command) : (s.presentNext w).tbl = s.tbl := rfl
@[simp] theorem presentNext_port (s : State) (w : Command) : (s.presentNext w).port = s.port := rfl
@[simp] theorem presentNext_rsp (s : State) (w : Command) : (s.presentNext w).rsp = s.rsp := rfl
@[simp] theorem presentNext_responses (s : State) (w : Command) : (s.presentNext w).responses = s.responses := rfl
@[simp] theorem presentNext_events (s : State) (w : Command) : (s.presentNext w).events = .command { s.port with cmd := w } :: s.events := rfl
@[simp] theorem presentNext_draws (s : State) (w : Command) : (s.presentNext w).draws = s.draws := rfl

/-! ### powerOnReset -/

@[simp] theorem powerOnReset_sum (s : State) : (powerOnReset s).sum = narrow (widthOfSel ((Config.porRegister (s.draws + 1) 10).setWidth 2)) (Config.porRegister (s.draws + 1) 0) := rfl
@[simp] theorem powerOnReset_poly (s : State) : (powerOnReset s).poly = narrow (widthOfSel ((Config.porRegister (s.draws + 1) 10).setWidth 2)) (Config.porRegister (s.draws + 1) 1) := rfl
@[simp] theorem powerOnReset_initial (s : State) : (powerOnReset s).initial = narrow (widthOfSel ((Config.porRegister (s.draws + 1) 10).setWidth 2)) (Config.porRegister (s.draws + 1) 2) := rfl
@[simp] theorem powerOnReset_finalXor (s : State) : (powerOnReset s).finalXor = narrow (widthOfSel ((Config.porRegister (s.draws + 1) 10).setWidth 2)) (Config.porRegister (s.draws + 1) 3) := rfl
@[simp] theorem powerOnReset_highBit (s : State) : (powerOnReset s).highBit = narrow (widthOfSel ((Config.porRegister (s.draws + 1) 10).setWidth 2)) (Config.porRegister (s.draws + 1) 4) := rfl
@[simp] theorem powerOnReset_mask (s : State) : (powerOnReset s).mask = narrow (widthOfSel ((Config.porRegister (s.draws + 1) 10).setWidth 2)) (Config.porRegister (s.draws + 1) 5) := rfl
@[simp] theorem powerOnReset_bits (s : State) : (powerOnReset s).bits = (Config.porRegister (s.draws + 1) 6).setWidth 8 := rfl
@[simp] theorem powerOnReset_byTable (s : State) : (powerOnReset s).byTable = (Config.porRegister (s.draws + 1) 7).getLsbD 0 := rfl
@[simp] theorem powerOnReset_reflect (s : State) : (powerOnReset s).reflect = (Config.porRegister (s.draws + 1) 8).getLsbD 0 := rfl
@[simp] theorem powerOnReset_reorder (s : State) : (powerOnReset s).reorder = (Config.porRegister (s.draws + 1) 9).getLsbD 0 := rfl
@[simp] theorem powerOnReset_wsel (s : State) : (powerOnReset s).wsel = ((Config.porRegister (s.draws + 1) 10).setWidth 2) := rfl
@[simp] theorem powerOnReset_state (s : State) : (powerOnReset s).state = .unconfigured := rfl
@[simp] theorem powerOnReset_faultCode (s : State) : (powerOnReset s).faultCode = .noFault := rfl
@[simp] theorem powerOnReset_faultInfo (s : State) : (powerOnReset s).faultInfo = 0 := rfl
@[simp] theorem powerOnReset_tbl (s : State) : (powerOnReset s).tbl = [] := rfl
@[simp] theorem powerOnReset_port (s : State) : (powerOnReset s).port = s.port := rfl
@[simp] theorem powerOnReset_rsp (s : State) : (powerOnReset s).rsp = none := rfl
@[simp] theorem powerOnReset_responses (s : State) : (powerOnReset s).responses = s.responses := rfl
@[simp] theorem powerOnReset_events (s : State) : (powerOnReset s).events = s.events := rfl
@[simp] theorem powerOnReset_draws (s : State) : (powerOnReset s).draws = s.draws + 1 := rfl

/-! ### configure -/

@[simp] theorem configure_sum (reorder reflect : Bool) (bits : Byte) (s : State) :
    (configure reorder reflect bits s).sum = seedOf reflect (highBitOf (widthSelect bits.toNat) bits.toNat) (busOperand (widthSelect bits.toNat) s.port.pInit) := rfl
@[simp] theorem configure_poly (reorder reflect : Bool) (bits : Byte) (s : State) :
    (configure reorder reflect bits s).poly = polyRegister (byTableOf bits.toNat) reflect (highBitOf (widthSelect bits.toNat) bits.toNat) (busOperand (widthSelect bits.toNat) s.port.pPoly) := rfl
@[simp] theorem configure_initial (reorder reflect : Bool) (bits : Byte) (s : State) :
    (configure reorder reflect bits s).initial = (busOperand (widthSelect bits.toNat) s.port.pInit) := rfl
@[simp] theorem configure_finalXor (reorder reflect : Bool) (bits : Byte) (s : State) :
    (configure reorder reflect bits s).finalXor = busOperand (widthSelect bits.toNat) s.port.pXor := rfl
@[simp] theorem configure_highBit (reorder reflect : Bool) (bits : Byte) (s : State) :
    (configure reorder reflect bits s).highBit = (highBitOf (widthSelect bits.toNat) bits.toNat) := rfl
@[simp] theorem configure_mask (reorder reflect : Bool) (bits : Byte) (s : State) :
    (configure reorder reflect bits s).mask = maskOf (widthSelect bits.toNat) (highBitOf (widthSelect bits.toNat) bits.toNat) := rfl
@[simp] theorem configure_bits (reorder reflect : Bool) (bits : Byte) (s : State) :
    (configure reorder reflect bits s).bits = bits := rfl
@[simp] theorem configure_byTable (reorder reflect : Bool) (bits : Byte) (s : State) :
    (configure reorder reflect bits s).byTable = byTableOf bits.toNat := rfl
@[simp] theorem configure_reflect (reorder reflect : Bool) (bits : Byte) (s : State) :
    (configure reorder reflect bits s).reflect = reflect := rfl
@[simp] theorem configure_reorder (reorder reflect : Bool) (bits : Byte) (s : State) :
    (configure reorder reflect bits s).reorder = reorder := rfl
@[simp] theorem configure_wsel (reorder reflect : Bool) (bits : Byte) (s : State) :
    (configure reorder reflect bits s).wsel = selOfWidth (widthSelect bits.toNat) := rfl
@[simp] theorem configure_state (reorder reflect : Bool) (bits : Byte) (s : State) :
    (configure reorder reflect bits s).state = .ready := rfl
@[simp] theorem configure_faultCode (reorder reflect : Bool) (bits : Byte) (s : State) :
    (configure reorder reflect bits s).faultCode = s.faultCode := rfl
@[simp] theorem configure_faultInfo (reorder reflect : Bool) (bits : Byte) (s : State) :
    (configure reorder reflect bits s).faultInfo = s.faultInfo := rfl
@[simp] theorem configure_tbl (reorder reflect : Bool) (bits : Byte) (s : State) :
    (configure reorder reflect bits s).tbl = if byTableOf bits.toNat then buildTable reflect (widthSelect bits.toNat) (busOperand (widthSelect bits.toNat) s.port.pPoly) bits.toNat else [] := rfl
@[simp] theorem configure_port (reorder reflect : Bool) (bits : Byte) (s : State) :
    (configure reorder reflect bits s).port = s.port := rfl
@[simp] theorem configure_rsp (reorder reflect : Bool) (bits : Byte) (s : State) :
    (configure reorder reflect bits s).rsp = none := rfl
@[simp] theorem configure_responses (reorder reflect : Bool) (bits : Byte) (s : State) :
    (configure reorder reflect bits s).responses = s.responses := rfl
@[simp] theorem configure_events (reorder reflect : Bool) (bits : Byte) (s : State) :
    (configure reorder reflect bits s).events = s.events := rfl
@[simp] theorem configure_draws (reorder reflect : Bool) (bits : Byte) (s : State) :
    (configure reorder reflect bits s).draws = if byTableOf bits.toNat then s.draws else s.draws + 1 := rfl

/-! ### What follows for the derived reads -/

@[simp] theorem writeSum_width (s : State) (v : Word) : (s.writeSum v).width = s.width := rfl
@[simp] theorem noResponse_width (s : State) : s.noResponse.width = s.width := rfl
@[simp] theorem respondWith_width (s : State) (r : Response) : (s.respondWith r).width = s.width := rfl
@[simp] theorem raiseFault_width (c : FaultCode) (s : State) : (raiseFault c s).width = s.width := rfl
@[simp] theorem dropEvent_width (s : State) : s.dropEvent.width = s.width := rfl
@[simp] theorem sample_width (s : State) (r : Request) : (s.sample r).width = s.width := rfl

@[simp] theorem writeSum_tblWord (s : State) (v : Word) (i : Byte) : (s.writeSum v).tblWord i = s.tblWord i := rfl
@[simp] theorem noResponse_tblWord (s : State) (i : Byte) : s.noResponse.tblWord i = s.tblWord i := rfl
@[simp] theorem respondWith_tblWord (s : State) (r : Response) (i : Byte) : (s.respondWith r).tblWord i = s.tblWord i := rfl
@[simp] theorem raiseFault_tblWord (c : FaultCode) (s : State) (i : Byte) : (raiseFault c s).tblWord i = s.tblWord i := rfl
@[simp] theorem dropEvent_tblWord (s : State) (i : Byte) : s.dropEvent.tblWord i = s.tblWord i := rfl
@[simp] theorem sample_tblWord (s : State) (r : Request) (i : Byte) : (s.sample r).tblWord i = s.tblWord i := rfl

@[simp] theorem respond_eq (s : State) (v : Word) : s.respond v = s.respondWith ⟨v, 0⟩ := rfl
@[simp] theorem respondBytes_eq (s : State) (bs : List Byte) :
    s.respondBytes bs = s.respondWith ⟨packBytes bs, BitVec.ofNat 4 bs.length⟩ := rfl
@[simp] theorem withFetchWord_eq (s : State) (nbits w : Nat) :
    s.withFetchWord nbits w = s.presentNext (tableCommand nbits w) := rfl

end Sys2Proof.Machine
end

