-- ==== Sys2Proof/Laws/Step.lean ====
section
/-! SUPPORT. What a command, an event and a step can do, said once. -/

namespace Sys2Proof.Machine

/-- A legal command other than CREATE answers a next state, by the three cases of R192 and R196. -/
theorem whenReady_cases {k : State → State} {s t : State} (h : whenReady k s = .next t) :
    (s.state = .unconfigured ∧ t = raiseFault .notConfigured s) ∨ (s.state = .ready ∧ t = k s) ∨
      (s.state = .fault ∧ t = s) := by
  unfold whenReady at h
  split at h <;> cases h
  · exact .inl ⟨‹_›, rfl⟩
  · exact .inr (.inl ⟨‹_›, rfl⟩)
  · exact .inr (.inr ⟨‹_›, rfl⟩)

theorem whenReady_ready {k : State → State} {s : State} (h : s.state = .ready) : whenReady k s = .next (k s) := by
  simp [whenReady, h]

theorem whenReady_unconfigured {k : State → State} {s : State} (h : s.state = .unconfigured) :
    whenReady k s = .next (raiseFault .notConfigured s) := by simp [whenReady, h]

theorem whenReady_fault {k : State → State} {s : State} (h : s.state = .fault) : whenReady k s = .next s := by
  simp [whenReady, h]

/-- CREATE answers a next state: its effect while commands are accepted, nothing in FAULT (R130, R196). -/
theorem whenAccepting_cases {k : State → State} {s t : State} (h : whenAccepting k s = .next t) :
    (s.state ≠ .fault ∧ t = k s) ∨ (s.state = .fault ∧ t = s) := by
  unfold whenAccepting at h
  split at h <;> cases h
  · exact .inl ⟨by simp [*], rfl⟩
  · exact .inl ⟨by simp [*], rfl⟩
  · exact .inr ⟨‹_›, rfl⟩

theorem whenAccepting_accepting {k : State → State} {s : State} (h : s.state ≠ .fault) :
    whenAccepting k s = .next (k s) := by
  cases hs : s.state <;> simp_all [whenAccepting]

theorem whenAccepting_fault {k : State → State} {s : State} (h : s.state = .fault) :
    whenAccepting k s = .next s := by simp [whenAccepting, h]

/-! ### CREATE's range check and DIGEST's choice of a rule -/

theorem bitsInRange_iff (bits : Byte) : bitsInRange bits = true ↔ 1 ≤ bits.toNat ∧ bits.toNat ≤ 64 := by
  simp [bitsInRange]

theorem createEffect_in_range (reorder reflect : Bool) {bits : Byte} (s : State) (h : bitsInRange bits = true) :
    createEffect reorder reflect bits s = configure reorder reflect bits s := by simp [createEffect, h]

theorem createEffect_out_of_range (reorder reflect : Bool) {bits : Byte} (s : State) (h : bitsInRange bits = false) :
    createEffect reorder reflect bits s = raiseFault .configFault s := by simp [createEffect, h]

theorem digestSum_ruleA (byte : Byte) {s : State} (ht : s.byTable = true) (h8 : s.bits = 8) :
    digestSum byte s = ruleA byte s := by simp [digestSum, updateRule, ht, h8]

theorem digestSum_ruleB (byte : Byte) {s : State} (ht : s.byTable = true) (h8 : s.bits ≠ 8) (hr : s.reflect = true) :
    digestSum byte s = ruleB byte s := by
  have h : (s.bits == 8) = false := beq_false_of_ne h8
  simp only [digestSum, updateRule, ht, hr, h]
  rfl

theorem digestSum_ruleC (byte : Byte) {s : State} (ht : s.byTable = true) (h8 : s.bits ≠ 8) (hr : s.reflect = false) :
    digestSum byte s = ruleC byte s := by
  have h : (s.bits == 8) = false := beq_false_of_ne h8
  simp only [digestSum, updateRule, ht, hr, h]
  rfl

theorem digestSum_ruleD (byte : Byte) {s : State} (ht : s.byTable = false) : digestSum byte s = ruleD byte s := by
  simp [digestSum, updateRule, ht]

/-! ### Commands and steps -/

/-- The effect of a command in READY. -/
def readyEffect : Instr → State → State
  | .create reorder reflect bits => createEffect reorder reflect bits
  | .digest byte => digestEffect byte
  | .reset => resetEffect
  | .getcrc => getcrcEffect
  | .getbytesBe => getbytesBeEffect
  | .getbytesLe => getbytesLeEffect

theorem exec_ready (i : Instr) {s : State} (h : s.state = .ready) : exec i s = .next (readyEffect i s) := by
  cases i <;> first | exact whenReady_ready h | exact whenAccepting_accepting (by simp [h])

theorem exec_fault (i : Instr) {s : State} (h : s.state = .fault) : exec i s = .next s := by
  cases i <;> first | exact whenReady_fault h | exact whenAccepting_fault h

/-- Everything a command can do: its READY effect, CREATE's effect from UNCONFIGURED, NotConfigured, or nothing. -/
theorem exec_cases {i : Instr} {s t : State} (h : exec i s = .next t) :
    (s.state = .ready ∧ t = readyEffect i s) ∨
      (s.state = .unconfigured ∧ i.isCreate = true ∧ t = readyEffect i s) ∨
      (s.state = .unconfigured ∧ i.isCreate = false ∧ t = raiseFault .notConfigured s) ∨ (s.state = .fault ∧ t = s) := by
  cases hs : s.state with
  | ready =>
    rw [exec_ready i hs] at h
    exact .inl ⟨rfl, by cases h; rfl⟩
  | fault =>
    rw [exec_fault i hs] at h
    exact .inr (.inr (.inr ⟨rfl, by cases h; rfl⟩))
  | unconfigured =>
    cases i with
    | create reorder reflect bits =>
      obtain ⟨-, rfl⟩ | ⟨hf, -⟩ := whenAccepting_cases h
      · exact .inr (.inl ⟨rfl, rfl, rfl⟩)
      · simp [hs] at hf
    | _ =>
      obtain ⟨-, rfl⟩ | ⟨hr, -⟩ | ⟨hf, -⟩ := whenReady_cases h
      · exact .inr (.inr (.inl ⟨rfl, rfl, rfl⟩))
      · simp [hs] at hr
      · simp [hs] at hf

theorem step_idle {s : State} (h : s.events = []) : step s = .next s := by
  simp [step, advance, h]

theorem step_por {s : State} {rest : List HostEvent} (h : s.events = .por :: rest) :
    step s = .next (powerOnReset s.dropEvent) := by
  simp [step, advance, takeEvent, h]

theorem step_turned_away {s : State} {r : Request} {rest : List HostEvent} (h : s.events = .command r :: rest)
    (hf : s.state = .fault) : step s = .next s.dropEvent := by
  simp [step, advance, takeEvent, presentCommand, State.cmdReady, h, hf]

theorem step_accepted {s : State} {r : Request} {rest : List HostEvent} (h : s.events = .command r :: rest)
    (hf : s.state ≠ .fault) : step s = runWord (s.dropEvent.sample r) := by
  simp [step, advance, takeEvent, presentCommand, State.cmdReady, h, hf]

/-- Everything a step can do. -/
theorem step_cases {s t : State} (h : step s = .next t) :
    (s.events = [] ∧ t = s) ∨
      (∃ rest, s.events = .por :: rest ∧ t = powerOnReset s.dropEvent) ∨
      (∃ r rest, s.events = .command r :: rest ∧ s.state = .fault ∧ t = s.dropEvent) ∨
      (∃ r rest why, s.events = .command r :: rest ∧ s.state ≠ .fault ∧ decode r.cmd = .illegal why ∧
        t = raiseFault .illegalCommand (s.dropEvent.sample r)) ∨
      (∃ r rest i, s.events = .command r :: rest ∧ s.state ≠ .fault ∧ decode r.cmd = .command i ∧
        exec i (s.dropEvent.sample r) = .next t) := by
  match he : s.events with
  | [] =>
    rw [step_idle he] at h
    exact .inl ⟨rfl, by cases h; rfl⟩
  | .por :: rest =>
    rw [step_por he] at h
    exact .inr (.inl ⟨rest, rfl, by cases h; rfl⟩)
  | .command r :: rest =>
    by_cases hf : s.state = .fault
    · rw [step_turned_away he hf] at h
      exact .inr (.inr (.inl ⟨r, rest, rfl, hf, by cases h; rfl⟩))
    · rw [step_accepted he hf] at h
      simp only [runWord, sample_port] at h
      split at h
      · next i hd => exact .inr (.inr (.inr (.inr ⟨r, rest, i, rfl, hf, hd, h⟩)))
      · next why hd => exact .inr (.inr (.inr (.inl ⟨r, rest, why, rfl, hf, hd, by cases h; rfl⟩)))

end Sys2Proof.Machine
end

