-- ==== Sys2Proof/Laws/Run.lean ====
section
/-! SUPPORT. What a run does one step at a time, and when it has ended well. -/

namespace Sys2Proof.Machine

theorem runSteps_step {s t : State} (n : Nat) (h : step s = .next t) : runSteps (n + 1) s = runSteps n t := by
  simp [runSteps, h]

/-- With no event left, a run has ended well exactly outside FAULT. -/
theorem endedWell_idle (n : Nat) {s : State} (h : s.events = []) : endedWell n s = s.cmdReady := by
  cases n <;> simp [endedWell, h]

/-- With an event left and no step allowed, a run has not ended. -/
theorem endedWell_zero {s : State} (h : s.events ≠ []) : endedWell 0 s = false := by
  simp [endedWell, h]

/-- With an event left, a run ends well exactly if the event is let in, the step does not lead to FAULT, and the rest
ends well (R218). -/
theorem endedWell_step {s t : State} (n : Nat) (he : s.events ≠ []) (h : step s = .next t) :
    endedWell (n + 1) s = (!s.turnsAway && t.cmdReady && endedWell n t) := by
  cases hw : s.turnsAway <;> simp [endedWell, he, hw, h]

theorem cmdReady_iff (s : State) : s.cmdReady = true ↔ s.state ≠ .fault := by
  simp [State.cmdReady]

/-- A step that leads to FAULT ends no run well, whatever follows. -/
theorem endedWell_of_step_to_fault {s t : State} (n : Nat) (h : step s = .next t) (hf : t.state = .fault) :
    endedWell (n + 1) s = false := by
  by_cases he : s.events = []
  · rw [step_idle he] at h
    cases h
    simp [endedWell_idle _ he, State.cmdReady, hf]
  · simp [endedWell_step n he h, State.cmdReady, hf]

end Sys2Proof.Machine
end

