-- ==== Sys2Proof/Laws/Values.lean ====
section
/-! SUPPORT. What the value-level operations do: truncation, the width coding, the table's reads and writes. -/

namespace Sys2Proof.Machine

/-! ### Truncation to the active width -/

theorem narrow_toNat (w : Nat) (v : Word) (h : w ≤ 64) : (narrow w v).toNat = v.toNat % 2 ^ w := by
  have hw : v.toNat % 2 ^ w < 2 ^ 64 :=
    lt_of_lt_of_le (Nat.mod_lt _ (by positivity)) (Nat.pow_le_pow_right (by norm_num) h)
  simp only [narrow, BitVec.toNat_setWidth]
  exact Nat.mod_eq_of_lt hw

theorem narrow_lt (w : Nat) (v : Word) : (narrow w v).toNat < 2 ^ w := by
  rcases Nat.le_total w 64 with h | h
  · rw [narrow_toNat w v h]
    exact Nat.mod_lt _ (by positivity)
  · exact lt_of_lt_of_le (narrow w v).isLt (Nat.pow_le_pow_right (by norm_num) h)

@[simp] theorem narrow_of_lt (w : Nat) (v : Word) (h : v.toNat < 2 ^ w) : narrow w v = v := by
  apply BitVec.eq_of_toNat_eq
  rcases Nat.le_total w 64 with hw | hw
  · rw [narrow_toNat w v hw, Nat.mod_eq_of_lt h]
  · have hv : v.toNat < 2 ^ 64 := v.isLt
    simp only [narrow, BitVec.toNat_setWidth, Nat.mod_eq_of_lt h, Nat.mod_eq_of_lt hv]

theorem getLsbD_narrow (w : Nat) (v : Word) (k : Nat) :
    (narrow w v).getLsbD k = (decide (k < w) && v.getLsbD k) := by
  simp only [narrow, BitVec.getLsbD_setWidth]
  rcases Nat.lt_or_ge k 64 with h | h
  · simp [h]
  · simp [BitVec.getLsbD_of_ge v k h]

theorem getLsbD_shiftLeft (w : Nat) (v : Word) (j k : Nat) :
    (shiftLeft w v j).getLsbD k = (decide (k < w) && (v <<< j).getLsbD k) := getLsbD_narrow w _ k

/-! ### The width and its coding (R31, R131) -/

theorem widthSelect_cases (n : Nat) :
    widthSelect n = 8 ∨ widthSelect n = 16 ∨ widthSelect n = 32 ∨ widthSelect n = 64 := by
  unfold widthSelect
  split
  · exact .inl rfl
  · split
    · exact .inr (.inl rfl)
    · split
      · exact .inr (.inr (.inl rfl))
      · exact .inr (.inr (.inr rfl))

theorem widthOfSel_le (sel : BitVec 2) : widthOfSel sel ≤ 64 := by
  revert sel
  decide

@[simp] theorem widthOfSel_selOfWidth (n : Nat) : widthOfSel (selOfWidth (widthSelect n)) = widthSelect n := by
  rcases widthSelect_cases n with h | h | h | h <;> rw [h] <;> decide

theorem width_le (s : State) : s.width ≤ 64 := widthOfSel_le s.wsel

@[simp] theorem configure_width (reorder reflect : Bool) (bits : Byte) (s : State) :
    (configure reorder reflect bits s).width = widthSelect bits.toNat := widthOfSel_selOfWidth bits.toNat

/-! ### The table -/

theorem lookup_map (f : Nat → Word) (i : Nat) (l : List Nat) (h : i ∈ l) :
    Table.lookup i (l.map fun j => (j, f j)) = some (f i) := by
  induction l with
  | nil => simp at h
  | cons j rest ih =>
    by_cases hj : j = i
    · simp [Table.lookup, hj]
    · have : i ∈ rest := by simpa [Ne.symm hj] using h
      simpa [Table.lookup, hj] using ih this

/-- Every word written by the builders is read back (R72). -/
theorem lookup_fill (f : Nat → Word) (i : Nat) (h : i < 256) : (Table.fill f).lookup i = some (f i) :=
  lookup_map f i _ (List.mem_range.mpr h)

/-- Reading a filled table gives the word of the index, whatever the index. -/
theorem tblWord_of_fill (s : State) (f : Nat → Word) (h : s.tbl = Table.fill f) (i : Byte) :
    s.tblWord i = f i.toNat := by
  simp [State.tblWord, h, lookup_fill f i.toNat i.isLt]

/-- A word that no CREATE has written reads as a free value. -/
theorem tblWord_unlisted (s : State) (i : Byte) (h : s.tbl.lookup i.toNat = none) :
    s.tblWord i = narrow s.width (Config.tableWord s.draws i.toNat) := by
  simp [State.tblWord, h]

/-- The empty table is in canonical form. -/
theorem wf_nil (w : Nat) : Table.wf w [] = true := by simp [Table.wf]

/-- Filling a table with words that fit gives the canonical form. -/
theorem wf_fill (w : Nat) (f : Nat → Word) (h : ∀ i < 256, (f i).toNat < 2 ^ w) : (Table.fill f).wf w = true := by
  have hmap : (Table.fill f).map Prod.fst = List.range 256 := by
    simp [Table.fill, List.map_map, Function.comp_def]
  have hall : ∀ c ∈ Table.fill f, c.1 < 256 ∧ c.2.toNat < 2 ^ w := by
    intro c hc
    obtain ⟨i, hi, rfl⟩ := List.mem_map.mp hc
    exact ⟨List.mem_range.mp hi, h i (List.mem_range.mp hi)⟩
  simp only [Table.wf, hmap, Bool.and_eq_true, decide_eq_true_eq, List.all_eq_true]
  exact ⟨List.pairwise_lt_range, fun c hc => by simpa using hall c hc⟩

/-- The table after reset is in canonical form, at the width reset leaves. -/
theorem reset_tbl_wf : State.reset.tbl.wf State.reset.width = true := wf_nil _

/-- A listed word of a canonical table fits the width. -/
theorem lookup_lt (w : Nat) (t : Table) (hwf : t.wf w = true) (i : Nat) (v : Word) (h : t.lookup i = some v) :
    v.toNat < 2 ^ w := by
  have hall : ∀ c ∈ t, c.2.toNat < 2 ^ w := by
    intro c hc
    simp only [Table.wf, Bool.and_eq_true, List.all_eq_true] at hwf
    simpa using (hwf.2 c hc).2
  clear hwf
  induction t with
  | nil => simp [Table.lookup] at h
  | cons c rest ih =>
    unfold Table.lookup at h
    split at h
    · cases h
      exact hall c (by simp)
    · exact ih h fun d hd => hall d (by simp [hd])

/-- A table read gives a `W`-bit value (R27), listed or not. -/
theorem tblWord_lt (s : State) (hwf : s.tbl.wf s.width = true) (i : Byte) : (s.tblWord i).toNat < 2 ^ s.width := by
  unfold State.tblWord
  split
  · next v h => exact lookup_lt s.width s.tbl hwf _ v h
  · exact narrow_lt _ _

end Sys2Proof.Machine
end

