-- ==== Sys2Proof/Tests/Slice0.lean ====
section
/-! SUPPORT. Tests of single steps against the values of spec/95_test_vectors.md, the smoke tests of WellFormed and the
decoder, and the states that show each statement's hypotheses can be met. -/

namespace Sys2Proof.Machine

/-! ### Words (spec/30_encoding.md, spec/95_test_vectors.md section 2.7) -/

/-- Each check of WellFormed refuses a word that breaks it alone. -/
theorem test_wellFormed_refuses : opSelects 0x6000 = false ∧ reservedClear 0x1408 = false ∧ flag1Clear 0x5200 = false ∧
    flag0Clear 0x4100 = false ∧ dataClear 0x5001 = false ∧
    ([0x6000, 0x0000, 0x1408, 0x5200, 0x4100, 0x5001] : List Command).all (fun w => !wellFormedWord w && !legalWord w)
      = true := by decide

/-- CREATE, all three fields set apart: `0001 00 1 0 00001100` is `reorder = 1`, `reflect = 0`, `bits = 12`. -/
theorem test_decode_create : decode 0b0001001000001100 = .command (.create true false 12) := by decide

/-- DIGEST: `0010 0000 00110001` carries the byte 0x31. -/
theorem test_decode_digest : decode 0b0010000000110001 = .command (.digest 0x31) := by decide

theorem test_decode_reset : decode 0b0011000000000000 = .command .reset := by decide
theorem test_decode_getcrc : decode 0b0100000000000000 = .command .getcrc := by decide
theorem test_decode_getbytesBe : decode 0b0101000000000000 = .command .getbytesBe := by decide
theorem test_decode_getbytesLe : decode 0b0101000100000000 = .command .getbytesLe := by decide

/-- A row given with the table's bit numbering. -/
theorem test_decodeTableWord : decodeTableWord 16 0x5100 = some .getbytesLe ∧ decodeTableWord 16 0x1008 =
    some (.create false false 8) ∧ decodeTableWord 16 0x0000 = none := by decide

/-- The spelling of R93. -/
theorem test_text : commandText (.create false true 5) ⟨0, 0x14, 0x1F, 0x1F⟩ =
    "CREATE poly=0x14, bits=5, init=0x1F, xor=0x1F, reflect=1, reorder=0" ∧
    commandText (.digest 0x31) ⟨0, 0, 0, 0⟩ = "DIGEST 0x31" := by decide

/-! ### Configured states of spec/95_test_vectors.md -/

/-- The state after a CREATE from reset, with the given buses. -/
def created (reorder reflect : Bool) (bits : Byte) (poly init xor : Word) : State :=
  configure reorder reflect bits { State.reset with port := ⟨encode (.create reorder reflect bits), poly, init, xor⟩ }

/-- T1: width 8, forward table, rule a. -/
def t1 : State := created false false 8 0x07 0 0
/-- T2: width 16, forward table, rule c. -/
def t2 : State := created false false 16 0x1021 0xFFFF 0
/-- T3: width 32, reflected table, rule b. -/
def t3 : State := created false true 32 0xEDB88320 0xFFFFFFFF 0xFFFFFFFF
/-- T8: width 16, reflected table, an initial value that is no palindrome. -/
def t8 : State := created false true 16 0x8408 0xC6C6 0
/-- B1: width 5, reflected bitwise, rule d. -/
def b1 : State := created false true 5 0x14 0x1F 0x1F
/-- B3 with `reorder`: width 12, bitwise, the bus bits at `W` and above set. -/
def b3 : State := created true false 12 0xFFFFFFFFFFFF080F 0 0

/-! ### CREATE (section 2.7) -/

/-- Word 0x1105: registers of the 5-bit reflected configuration. -/
theorem test_create_bitwise : b1.wsel = 0 ∧ b1.byTable = false ∧ b1.poly = 0x05 ∧ b1.highBit = 0x10 ∧ b1.mask = 0x1F ∧
    b1.sum = 0x1F ∧ b1.initial = 0x1F := by decide +kernel

/-- Word 0x1110 with a reflected seed and a table word of R125. -/
theorem test_create_table : t8.wsel = 1 ∧ t8.byTable = true ∧ t8.poly = 0x8408 ∧ t8.highBit = 0x8000 ∧
    t8.mask = 0xFFFF ∧ t8.sum = 0x6363 ∧ t8.tblWord 1 = 0x1189 ∧ t8.tblWord 0xFF = 0x0F78 := by decide +kernel

/-! ### DIGEST (sections 2.3, 2.4): the first byte 0x31 of each trace -/

theorem test_digest_rule_a : (digestEffect 0x31 t1).sum = 0x97 ∧
    (digestEffect 0x32 (t1.writeSum 0x97)).sum = 0x72 := by decide +kernel

theorem test_digest_rules_b_c_d : (digestEffect 0x31 t3).sum = 0x7C231048 ∧ (digestEffect 0x31 t2).sum = 0xC782 ∧
    (digestEffect 0x31 b1).sum = 0x98 ∧ (digestEffect 0x31 b3).sum = 0x09EF := by decide +kernel

/-! ### RESET (section 2.5) -/

theorem test_reset : (resetEffect (t8.writeSum 0xBF05)).sum = 0x6363 ∧
    (resetEffect (b1.writeSum 0x0C)).sum = 0x1F := by decide +kernel

/-! ### The output formatter (section 2.6): the states after the nine bytes -/

theorem test_getcrc : (getcrcEffect (t3.writeSum 0x340BC6D9)).rsp = some ⟨0xCBF43926, 0⟩ ∧
    (getcrcEffect (b1.writeSum 0x0C)).rsp = some ⟨0x19, 0⟩ ∧
    (getcrcEffect (b3.writeSum 0x4F5B)).rsp = some ⟨0x5B0F, 0⟩ := by decide +kernel

theorem test_getbytesBe : (getbytesBeEffect (t3.writeSum 0x340BC6D9)).rsp = some ⟨0x2639F4CB, 4⟩ ∧
    (getbytesBeEffect (b3.writeSum 0x4F5B)).rsp = some ⟨0x0F5B, 2⟩ := by decide +kernel

theorem test_getbytesLe : (getbytesLeEffect (t3.writeSum 0x340BC6D9)).rsp = some ⟨0xCBF43926, 4⟩ ∧
    (getbytesLeEffect (b3.writeSum 0x4F5B)).rsp = some ⟨0x5B0F, 2⟩ := by decide +kernel

/-! ### Faults and the step (section 2.7) -/

/-- The status port after a step: `st_state`, `st_fault`, `st_info`, and whether a response was driven. -/
def statusAfter (s : State) : Option (BitVec 2 × BitVec 2 × BitVec 16 × Bool) :=
  match step s with
  | .next t => some (t.stState, t.stFault, t.stInfo, t.rsp.isSome)
  | .fault _ => none
  | .refused _ => none

theorem test_status_from_unconfigured :
    statusAfter (State.reset.withFetchWord 16 0x1041) = some (2, 1, 0x1041, false) ∧
    statusAfter (State.reset.withFetchWord 16 0x4000) = some (2, 3, 0x4000, false) ∧
    statusAfter (State.reset.withFetchWord 16 0x3001) = some (2, 2, 0x3001, false) ∧
    statusAfter (State.reset.withFetchWord 16 0x1008) = some (1, 0, 0, false) := by decide +kernel

theorem test_status_from_ready_and_fault :
    statusAfter (b1.withFetchWord 16 0x1000) = some (2, 1, 0x1000, false) ∧
    statusAfter (b1.withFetchWord 16 0x4000) = some (1, 0, 0, true) ∧
    statusAfter ((raiseFault .configFault b1).withFetchWord 16 0x4000) = some (2, 1, 0x1105, false) := by decide +kernel

/-- A CREATE with `bits = 65`, and then a power-on reset. -/
def faultedThenRevived : State := { State.reset with events := [.command ⟨0x1041, 0, 0, 0⟩, .por] }

/-- R218: "A run that reaches FAULT has ended badly", a later power-on reset notwithstanding (log entry 12). -/
theorem test_revived_run_ended_badly : endedWell 2 faultedThenRevived = false := by decide +kernel

/-- R218, CREATE and then GETCRC, the order R212 asks for, ends well. -/
theorem test_legal_run_ended_well : endedWell 2 { State.reset with
    events := [.command ⟨0x1105, 0x14, 0x1F, 0x1F⟩, .command ⟨0x4000, 0, 0, 0⟩] } = true := by decide +kernel

/-! ### Words of the tables (R125) -/

theorem test_table_words : forwardWord 8 0x07 8 0x31 = 0x97 ∧ forwardWord 16 0x1021 16 0xFF = 0x1EF0 ∧
    forwardWord 32 0x864CFB 24 0x80 = 0x3347A4 ∧ forwardWord 64 0x42F0E1EBA9EA3693 64 0xFF = 0x9AFCE626CE85B507 ∧
    reflectedWord 0xEDB88320 1 = 0x77073096 ∧ reflectedWord 0x8408 0xFF = 0x0F78 := by decide +kernel

/-! ### The states above meet the invariant -/

/-- The listed words of a filled table fit the width, checked word by word. -/
theorem wf_of_all (w : Nat) (f : Nat → Word) (h : (List.range 256).all (fun i => decide ((f i).toNat < 2 ^ w)) = true) :
    (Table.fill f).wf w = true :=
  wf_fill w f fun i hi => by simpa using List.all_eq_true.mp h i (List.mem_range.mpr hi)

theorem cells_t1 : t1.tbl.wf t1.width = true :=
  wf_of_all 8 (forwardWord 8 0x07 8) (by decide +kernel)

theorem cells_t2 : t2.tbl.wf t2.width = true :=
  wf_of_all 16 (forwardWord 16 0x1021 16) (by decide +kernel)

theorem cells_t3 : t3.tbl.wf t3.width = true :=
  wf_of_all 32 (reflectedWord 0xEDB88320) (by decide +kernel)

theorem t1_inv : t1.Inv where
  cells := ⟨by decide +kernel, by decide +kernel, by decide +kernel, by decide +kernel, by decide +kernel,
    by decide +kernel, cells_t1⟩
  ready _ := ⟨by decide +kernel, by decide +kernel, by decide +kernel, by decide +kernel, by decide +kernel,
    by decide +kernel, fun _ => rfl⟩

theorem t2_inv : t2.Inv where
  cells := ⟨by decide +kernel, by decide +kernel, by decide +kernel, by decide +kernel, by decide +kernel,
    by decide +kernel, cells_t2⟩
  ready _ := ⟨by decide +kernel, by decide +kernel, by decide +kernel, by decide +kernel, by decide +kernel,
    by decide +kernel, fun _ => rfl⟩

theorem t3_inv : t3.Inv where
  cells := ⟨by decide +kernel, by decide +kernel, by decide +kernel, by decide +kernel, by decide +kernel,
    by decide +kernel, cells_t3⟩
  ready _ := ⟨by decide +kernel, by decide +kernel, by decide +kernel, by decide +kernel, by decide +kernel,
    by decide +kernel, fun _ => rfl⟩

theorem b1_inv : b1.Inv where
  cells := ⟨by decide +kernel, by decide +kernel, by decide +kernel, by decide +kernel, by decide +kernel,
    by decide +kernel, wf_nil _⟩
  ready _ := ⟨by decide +kernel, by decide +kernel, by decide +kernel, by decide +kernel, by decide +kernel,
    by decide +kernel, fun h => absurd h (by decide +kernel)⟩

theorem b3_inv : b3.Inv where
  cells := ⟨by decide +kernel, by decide +kernel, by decide +kernel, by decide +kernel, by decide +kernel,
    by decide +kernel, wf_nil _⟩
  ready _ := ⟨by decide +kernel, by decide +kernel, by decide +kernel, by decide +kernel, by decide +kernel,
    by decide +kernel, fun h => absurd h (by decide +kernel)⟩

/-! ### The hypotheses of the statements can be met

One theorem per statement that has hypotheses, named after it. Where clauses do not exclude each other, boundary values
stand for each. -/

/-- A state with one command pending, the buses at 0. -/
def pending (s : State) (w : Command) : State := { s with events := [.command ⟨w, 0, 0, 0⟩] }

/-- The engine in FAULT after an illegal word. -/
def faulted : State := raiseFault .illegalCommand { State.reset with port := ⟨0x3001, 0, 0, 0⟩ }

theorem witness_DecodeOfEncodeIsTheCommand : (Instr.create true false 255).wellFormed = true := by decide

theorem witness_EncodeOfDecodeIsTheWord : decode 0x13FF = .command (.create true true 255) := by decide

theorem witness_EveryWordHasExactlyOneVerdict :
    (∃ why, decode 0x0FFF = .illegal why) ∧ decode 0x5100 = .command .getbytesLe := ⟨⟨.noSuchOpcode, by decide⟩, by decide⟩

theorem witness_UnknownOpcodeRaisesIllegalCommand : State.reset.state ≠ .fault ∧ t1.state ≠ .fault ∧
    (∀ w, (pending t1 w).events = [.command ⟨w, 0, 0, 0⟩]) ∧
    ([0x0000, 0x0FFF, 0x6000, 0xFFFF] : List Command).all
      (fun w => decide (w.toNat / 2 ^ 12 = 0 ∨ 6 ≤ w.toNat / 2 ^ 12)) = true :=
  ⟨by decide, by decide +kernel, fun _ => rfl, by decide⟩

theorem witness_ReservedBitRaisesIllegalCommand : State.reset.state ≠ .fault ∧
    (0x1800 : Command).getLsbD 11 = true ∧ (0x1400 : Command).getLsbD 10 = true ∧ (0x5200 : Command).getLsbD 9 = true ∧
    (0x4100 : Command).getLsbD 8 = true ∧ (0x2131 : Command).getLsbD 8 = true ∧ (0x5001 : Command).toNat % 2 ^ 8 ≠ 0 ∧
    (∀ w, (pending State.reset w).events = [.command ⟨w, 0, 0, 0⟩]) ∧
    ([0x1800, 0x1400, 0x5200, 0x4100, 0x2131, 0x5001] : List Command).all
      (fun w => decide (1 ≤ w.toNat / 2 ^ 12 ∧ w.toNat / 2 ^ 12 ≤ 5)) = true :=
  ⟨by decide, by decide, by decide, by decide, by decide, by decide, by decide, fun _ => rfl, by decide⟩

theorem witness_StepRunsTheDecodedCommand : (pending t1 0x2031).state ≠ .fault ∧
    (pending t1 0x2031).events = [.command ⟨0x2031, 0, 0, 0⟩] ∧ decode 0x2031 = .command (.digest 0x31) :=
  ⟨by decide +kernel, rfl, by decide⟩

theorem witness_EveryStepCompletes : State.reset.events = [] := rfl

theorem witness_PowerOnResetInAnyState : { faulted with events := [.por] }.events = .por :: [] := rfl

theorem witness_ChecksRunInOrder : (pending State.reset 0x4000).state ≠ .fault ∧
    (pending State.reset 0x4000).events = [.command ⟨0x4000, 0, 0, 0⟩] := ⟨by decide, rfl⟩

theorem witness_CommandsBeforeCreateRaiseNotConfigured :
    (Instr.digest 0x31).isCreate = false ∧ Instr.getbytesLe.isCreate = false ∧ State.reset.state = .unconfigured := by
  decide

theorem witness_BadBitsRaiseConfigFault : State.reset.state ≠ .fault ∧ t1.state ≠ .fault ∧
    (0 : Byte).toNat = 0 ∧ 64 < (65 : Byte).toNat ∧ 64 < (255 : Byte).toNat :=
  ⟨by decide, by decide +kernel, by decide, by decide, by decide⟩

theorem witness_FaultEntryWritesOnlyTheStatus : ∃ t, (pending t1 0x3001).state ≠ .fault ∧
    step (pending t1 0x3001) = .next t ∧ t.state = .fault ∧ noPor t.events = true :=
  ⟨raiseFault .illegalCommand ((pending t1 0x3001).dropEvent.sample ⟨0x3001, 0, 0, 0⟩), by decide +kernel, rfl, rfl, rfl⟩

theorem witness_FaultLastsUntilPowerOnReset : (pending faulted 0x1008).state = .fault ∧
    (pending faulted 0x1008).events = [.command ⟨0x1008, 0, 0, 0⟩] ∧ noPor (pending faulted 0x1008).events = true ∧
    ∃ t, step { faulted with events := [.por] } = .next t ∧ t.state ≠ .fault :=
  ⟨rfl, rfl, by decide, ⟨powerOnReset { faulted with events := [] }, rfl, by decide⟩⟩

theorem witness_StepKeepsTheFaultRecord : faulted.FaultRecord ∧ State.reset.FaultRecord ∧
    step faulted = .next faulted :=
  ⟨⟨rfl, .reservedNotZero, by decide⟩, ⟨by decide, rfl⟩, rfl⟩

theorem witness_OnlyReadsRespond : ∃ t, (pending t1 0x4000).state ≠ .fault ∧
    (pending t1 0x4000).events = [.command ⟨0x4000, 0, 0, 0⟩] ∧ step (pending t1 0x4000) = .next t ∧
    (pending t1 0x4000).state = .ready ∧ decode 0x4000 = .command .getcrc :=
  ⟨getcrcEffect ((pending t1 0x4000).dropEvent.sample ⟨0x4000, 0, 0, 0⟩), by decide +kernel, rfl, rfl, rfl, by decide⟩

theorem witness_ReflectionClosedForm : ∃ b₁ b₂ : Nat, 1 ≤ b₁ ∧ b₁ ≤ 64 ∧ 1 ≤ b₂ ∧ b₂ ≤ 64 ∧ b₁ = 1 ∧ b₂ = 64 :=
  ⟨1, 64, by decide⟩

theorem witness_ReflectionCornerCases : ∃ (b : Nat) (n m : Word), 1 ≤ b ∧ b ≤ 64 ∧ n ≠ m ∧
    n.toNat % 2 ^ b = m.toNat % 2 ^ b := ⟨5, 0xF4, 0x14, by decide⟩

theorem witness_TableWordsFitTheCrcWidth : ∃ (p : Word) (bits i : Nat), 1 ≤ bits ∧ bits ≤ 64 ∧ bits % 8 = 0 ∧ i < 256 ∧
    p.toNat < 2 ^ bits := ⟨0x864CFB, 24, 255, by decide⟩

theorem witness_TableLaws : ∃ bits₁ bits₂ : Nat, 1 ≤ bits₁ ∧ bits₁ % 8 = 0 ∧ bits₂ ≤ 64 ∧ bits₂ % 8 = 0 ∧ bits₁ = 8 ∧
    bits₂ = 64 := ⟨8, 64, by decide⟩

theorem witness_WidthSelectorIsTheNarrowest :
    ([1, 8, 9, 16, 17, 32, 33, 64] : List Nat).all (fun b => decide (1 ≤ b) && decide (b ≤ 64)) = true ∧
    ([1, 8, 9, 16, 17, 32, 33, 64] : List Nat).map widthSelect = [8, 8, 16, 16, 32, 32, 64, 64] := by decide

theorem witness_CreateConfiguresTheEngine : State.reset.state ≠ .fault ∧ t1.state ≠ .fault ∧ 1 ≤ (1 : Byte).toNat ∧
    (1 : Byte).toNat ≤ 64 ∧ 1 ≤ (64 : Byte).toNat ∧ (64 : Byte).toNat ≤ 64 :=
  ⟨by decide, by decide +kernel, by decide, by decide, by decide, by decide⟩

theorem witness_CreateForgetsTheEarlierConfiguration : ∃ t t', State.reset.state ≠ .fault ∧
    { b1 with port := State.reset.port }.state ≠ .fault ∧
    { b1 with port := State.reset.port }.port = State.reset.port ∧
    exec (.create false true 16) State.reset = .next t ∧
    exec (.create false true 16) { b1 with port := State.reset.port } = .next t' :=
  ⟨createEffect false true 16 State.reset, createEffect false true 16 { b1 with port := State.reset.port },
    by decide, by decide +kernel, rfl, rfl, rfl⟩

theorem witness_OutOfDomainBusBitsNeverShow : ∃ (r r' : Request) (t t' : State), r ≠ r' ∧ r'.cmd = r.cmd ∧
    r'.pInit.toNat % 2 ^ 12 = r.pInit.toNat % 2 ^ 12 ∧ r'.pXor.toNat % 2 ^ 12 = r.pXor.toNat % 2 ^ 12 ∧
    r'.pPoly.toNat % 2 ^ 12 = r.pPoly.toNat % 2 ^ 12 ∧
    exec (.create false true 12) { State.reset with port := r } = .next t ∧
    exec (.create false true 12) { State.reset with port := r' } = .next t' :=
  ⟨⟨0x110C, 0x80F, 0, 0⟩, ⟨0x110C, 0xF80F, 0xF000, 0xF000⟩,
    createEffect false true 12 { State.reset with port := ⟨0x110C, 0x80F, 0, 0⟩ },
    createEffect false true 12 { State.reset with port := ⟨0x110C, 0xF80F, 0xF000, 0xF000⟩ },
    by decide, rfl, by decide, by decide, by decide, rfl, rfl⟩

/-- In reflected table mode the hypothesis on the low `W` bits is met too (`bits = 24`, `W = 32`). -/
theorem witness_OutOfDomainBusBitsNeverShow_table : ∃ r r' : Request, r ≠ r' ∧ r'.cmd = r.cmd ∧
    r'.pPoly.toNat % 2 ^ widthSelect 24 = r.pPoly.toNat % 2 ^ widthSelect 24 ∧
    r'.pPoly.toNat % 2 ^ 24 = r.pPoly.toNat % 2 ^ 24 ∧ r'.pInit.toNat % 2 ^ 24 = r.pInit.toNat % 2 ^ 24 ∧
    r'.pXor.toNat % 2 ^ 24 = r.pXor.toNat % 2 ^ 24 :=
  ⟨⟨0x1118, 0xEDB883, 0, 0⟩, ⟨0x1118, 0xF00000000EDB883, 0xFF000000, 0⟩, by decide⟩

theorem witness_StartUpForgetsEverything : ∃ s : State,
    s.events = [.por, .command ⟨0x1105, 0x14, 0x1F, 0x1F⟩] ∧ decode 0x1105 = .command (.create false true 5) :=
  ⟨{ faulted with events := [.por, .command ⟨0x1105, 0x14, 0x1F, 0x1F⟩] }, rfl, by decide⟩

theorem witness_DigestByRuleA : t1.Inv ∧ t1.state = .ready ∧ t1.byTable = true ∧ t1.bits = 8 :=
  ⟨t1_inv, rfl, rfl, rfl⟩

theorem witness_DigestByRuleB : t3.Inv ∧ t3.state = .ready ∧ t3.byTable = true ∧ t3.bits ≠ 8 ∧ t3.reflect = true :=
  ⟨t3_inv, rfl, rfl, by decide +kernel, rfl⟩

theorem witness_DigestByRuleC : t2.Inv ∧ t2.state = .ready ∧ t2.byTable = true ∧ t2.bits ≠ 8 ∧ t2.reflect = false :=
  ⟨t2_inv, rfl, rfl, by decide +kernel, rfl⟩

theorem witness_DigestByRuleD : b1.Inv ∧ b1.state = .ready ∧ b1.byTable = false ∧ b1.reflect = true ∧
    b3.Inv ∧ b3.state = .ready ∧ b3.byTable = false ∧ b3.reflect = false :=
  ⟨b1_inv, rfl, rfl, rfl, b3_inv, rfl, rfl, rfl⟩

theorem witness_RuleAIsRulesBAndCAtEightBits : t1.Inv ∧ t1.state = .ready ∧ t1.bits = 8 := ⟨t1_inv, rfl, rfl⟩

theorem witness_ByteSequenceIsDigestedInOrder : ∃ s : State, s.state = .ready ∧
    s.events = presentAll ⟨0, 0, 0, 0⟩ (digestBytes [0x31, 0x32]) ++ [.por] :=
  ⟨{ t1 with events := presentAll ⟨0, 0, 0, 0⟩ (digestBytes [0x31, 0x32]) ++ [.por] }, rfl, rfl⟩

theorem witness_ForwardTableAgreesWithBitSerial : t2.Inv ∧ t2.state = .ready ∧ t2.byTable = true ∧ t2.reflect = false :=
  ⟨t2_inv, rfl, rfl, rfl⟩

theorem witness_ReflectedTableMirrorsBitSerial : t3.Inv ∧ t3.state = .ready ∧ t3.byTable = true ∧ t3.reflect = true ∧
    t3.poly.toNat < 2 ^ t3.bits.toNat ∧ reflectBits t3.highBit 0xFFFFFFFF = t3.sum :=
  ⟨t3_inv, rfl, rfl, rfl, by decide +kernel, by decide +kernel⟩

theorem witness_CellsRefineTheWidthIndexedEngine : t1.Inv ∧ t1.state = .ready ∧ t3.Inv ∧ t3.state = .ready ∧ b1.Inv ∧
    b1.state = .ready := ⟨t1_inv, rfl, t3_inv, rfl, b1_inv, rfl⟩

theorem witness_ResetInstallsTheWorkingForm : t2.Inv ∧ t2.state = .ready ∧ b1.Inv ∧ b1.state = .ready :=
  ⟨t2_inv, rfl, b1_inv, rfl⟩

theorem witness_ResetEquivalence : ∃ t u, State.reset.state ≠ .fault ∧ 1 ≤ (5 : Byte).toNat ∧ (5 : Byte).toNat ≤ 64 ∧
    exec (.create false true 5) State.reset = .next t ∧
    (∀ i ∈ [Instr.digest 0x31, .getcrc], i.isCreate = false) ∧ execAll [.digest 0x31, .getcrc] t = .next u :=
  ⟨createEffect false true 5 State.reset, getcrcEffect (digestEffect 0x31 (createEffect false true 5 State.reset)),
    by decide, by decide, by decide, rfl, by decide, rfl⟩

theorem witness_GetcrcRespondsTheCrcValue : b1.Inv ∧ b1.state = .ready ∧ b1.reorder = false ∧ b3.Inv ∧
    b3.state = .ready ∧ b3.reorder = true := ⟨b1_inv, rfl, rfl, b3_inv, rfl, rfl⟩

theorem witness_GetbytesBeRespondsTheBytes : t2.Inv ∧ t2.state = .ready := ⟨t2_inv, rfl⟩

theorem witness_GetbytesLeRespondsTheBytes : b3.Inv ∧ b3.state = .ready := ⟨b3_inv, rfl⟩

theorem witness_EndianRoundTrip : t3.Inv ∧ t3.state = .ready := ⟨t3_inv, rfl⟩

theorem witness_ReorderCancelsEndianness : b3.Inv ∧ b3.state = .ready := ⟨b3_inv, rfl⟩

theorem witness_GetcrcResponseBounds : ∃ t, b3.Inv ∧ b3.state = .ready ∧ exec .getcrc b3 = .next t ∧
    t1.Inv ∧ t1.state = .ready ∧ (t1.reorder = false ∨ t1.bits.toNat % 8 = 0) :=
  ⟨getcrcEffect b3, b3_inv, rfl, exec_ready .getcrc rfl, t1_inv, rfl, .inl rfl⟩

theorem witness_ReadsDoNotDisturbTheComputation : ∃ t, Instr.getcrc ∈ [Instr.getcrc, .getbytesBe, .getbytesLe] ∧
    t1.state = .ready ∧ exec .getcrc t1 = .next t := ⟨getcrcEffect t1, by decide, rfl, exec_ready .getcrc rfl⟩

theorem witness_ValueOfTheEmptyMessage : ∃ t u, b1.Inv ∧ b1.state = .ready ∧ b1.reorder = false ∧
    exec .reset b1 = .next t ∧ exec .getcrc t = .next u :=
  ⟨resetEffect b1, getcrcEffect (resetEffect b1), b1_inv, rfl, rfl, exec_ready .reset rfl, exec_ready .getcrc rfl⟩

theorem witness_FrameOfCreate : ∃ t u, exec (.create false true 5) State.reset = .next t ∧ t.state = .ready ∧
    exec (.create false true 65) State.reset = .next u ∧ u.state = .fault := ⟨_, _, rfl, by decide, rfl, by decide⟩

theorem witness_FrameOfDigestAndReset : ∃ t u, exec (.digest 0x31) t1 = .next t ∧ t1.state = .ready ∧
    exec .reset State.reset = .next u ∧ State.reset.state ≠ .ready :=
  ⟨digestEffect 0x31 t1, raiseFault .notConfigured State.reset, exec_ready (.digest 0x31) rfl, rfl, rfl, by decide⟩

theorem witness_FrameOfTheReads : ∃ t u, exec .getbytesLe t1 = .next t ∧ t1.state = .ready ∧
    exec .getcrc State.reset = .next u ∧ State.reset.state ≠ .ready :=
  ⟨getbytesLeEffect t1, raiseFault .notConfigured State.reset, exec_ready .getbytesLe rfl, rfl, rfl, by decide⟩

theorem witness_OnlyCreateWritesTheConfiguration : ∃ t, step (pending State.reset 0x1008) = .next t :=
  ⟨createEffect false false 8 ((pending State.reset 0x1008).dropEvent.sample ⟨0x1008, 0, 0, 0⟩), rfl⟩

theorem witness_OnlyThreeCommandsWriteSum : ∃ t, step (pending t1 0x3000) = .next t :=
  ⟨resetEffect ((pending t1 0x3000).dropEvent.sample ⟨0x3000, 0, 0, 0⟩), rfl⟩

theorem witness_StepKeepsTheInvariant : ∃ t, t1.Inv ∧ step t1 = .next t := ⟨t1, t1_inv, step_idle rfl⟩

theorem witness_StepKeepsTheReflectedRange : ∃ t, t3.Inv ∧ t3.ReflectedInRange ∧ step t3 = .next t :=
  ⟨t3, t3_inv, fun _ _ _ _ => by decide +kernel, step_idle rfl⟩

/-- Two different configured states that differ only in bits above `bits`. -/
theorem witness_HiddenStateNeverShows : ∃ s t : State, s.Inv ∧ t.Inv ∧ s ≠ t ∧ s.Indist t :=
  ⟨b3, { b3 with sum := 0xF000 },
    b3_inv,
    ⟨⟨by decide +kernel, b3_inv.cells.poly, b3_inv.cells.initial, b3_inv.cells.finalXor, b3_inv.cells.highBit,
        b3_inv.cells.mask, b3_inv.cells.tbl⟩,
      fun h => ⟨(b3_inv.ready h).bitsPos, (b3_inv.ready h).bitsLe, (b3_inv.ready h).width, (b3_inv.ready h).byTable,
        (b3_inv.ready h).highBit, (b3_inv.ready h).mask, fun hb => absurd hb (by decide +kernel)⟩⟩,
    by decide +kernel,
    ⟨rfl, rfl, rfl, rfl, rfl, rfl, fun _ => ⟨rfl, rfl, rfl, rfl, rfl, rfl, rfl, rfl, rfl, by decide +kernel,
      fun hb => absurd hb (by decide +kernel), fun _ => rfl, fun hb => absurd hb (by decide +kernel)⟩⟩⟩

theorem witness_RunsFromIndistinguishableStatesLookAlike : ∃ s t : State, s.Inv ∧ t.Inv ∧ s.Indist t :=
  let ⟨s, t, hs, ht, _, h⟩ := witness_HiddenStateNeverShows
  ⟨s, t, hs, ht, h⟩

theorem witness_LegalRunsEndWellAndFaultedOnesDoNot : faulted.state = .fault ∧ noPor faulted.events = true ∧
    (∃ t, runSteps 1 faultedThenRevived = .next t ∧ t.state = .fault) ∧
    (pending State.reset 0x1008).state ≠ .fault ∧
    (pending State.reset 0x1008).events = .command ⟨0x1008, 0, 0, 0⟩ :: ([] : List Request).map .command ∧
    { faulted with events := [.por, .command ⟨0x1008, 0, 0, 0⟩] }.events =
      .por :: .command ⟨0x1008, 0, 0, 0⟩ :: ([] : List Request).map .command ∧
    decode 0x1008 = .command (.create false false 8) ∧ 1 ≤ (8 : Byte).toNat ∧ (8 : Byte).toNat ≤ 64 :=
  ⟨rfl, rfl, ⟨raiseFault .configFault (faultedThenRevived.dropEvent.sample ⟨0x1041, 0, 0, 0⟩), rfl, rfl⟩,
    by decide, rfl, rfl, by decide, by decide, by decide⟩

end Sys2Proof.Machine
end

section
/-! PROOFS. Encoding (spec/30_encoding.md): the decoder read against the opcode map and against the reserved-field
rules, and the outcome of an accepted word. -/

/-! ### A word by its fields (R83) -/

namespace Sys2Proof

/-- The five fields of R83 make up the whole word. -/
theorem word_eq_iff_fields (v w : Command) :
    v = w ↔ opField v = opField w ∧ reservedField v = reservedField w ∧ v.getLsbD 9 = w.getLsbD 9 ∧
      v.getLsbD 8 = w.getLsbD 8 ∧ dataField v = dataField w := by
  refine ⟨fun h => by simp [h], fun ⟨hop, hrsv, hf1, hf0, hd⟩ => BitVec.eq_of_getLsbD_eq fun k hk => ?_⟩
  have bitOf {start len : Nat} (h : v.extractLsb' start len = w.extractLsb' start len) (hlo : start ≤ k)
      (hhi : k < start + len) : v.getLsbD k = w.getLsbD k := by
    have hbit := congrArg (BitVec.getLsbD · (k - start)) h
    have hlen : k - start < len := by omega
    simpa only [BitVec.getLsbD_extractLsb', hlen, decide_true, Bool.true_and, Nat.add_sub_cancel' hlo] using hbit
  have hpos : k < 0 + 8 ∨ k = 8 ∨ k = 9 ∨ (10 ≤ k ∧ k < 10 + 2) ∨ (12 ≤ k ∧ k < 12 + 4) := by omega
  obtain hlt | rfl | rfl | ⟨hlo, hhi⟩ | ⟨hlo, hhi⟩ := hpos
  · exact bitOf hd (Nat.zero_le k) hlt
  · exact hf0
  · exact hf1
  · exact bitOf hrsv hlo hhi
  · exact bitOf hop hlo hhi

theorem opField_toNat (w : Command) : (opField w).toNat = w.toNat / 2 ^ 12 := by
  have := w.isLt
  simp only [opField, BitVec.extractLsb'_toNat, Nat.shiftRight_eq_div_pow]
  omega

theorem dataField_toNat (w : Command) : (dataField w).toNat = w.toNat % 2 ^ 8 := by
  simp [dataField]

theorem opField_eq_iff (w : Command) (op : BitVec 4) : opField w = op ↔ w.toNat / 2 ^ 12 = op.toNat := by
  rw [← opField_toNat, BitVec.toNat_inj]

/-! ### The decoder, one equation per operation (R88, R90, R91) -/

theorem decode_op_create {w : Command} (h : opField w = 1) :
    decode w = ifZero (reservedField w == 0) (.create (w.getLsbD 9) (w.getLsbD 8) (dataField w)) := by
  simp [decode, h]

theorem decode_op_digest {w : Command} (h : opField w = 2) :
    decode w = ifZero (reservedField w == 0 && !w.getLsbD 9 && !w.getLsbD 8) (.digest (dataField w)) := by
  simp [decode, h]

theorem decode_op_reset {w : Command} (h : opField w = 3) :
    decode w = ifZero (reservedField w == 0 && !w.getLsbD 9 && !w.getLsbD 8 && dataField w == 0) .reset := by
  simp [decode, h]

theorem decode_op_getcrc {w : Command} (h : opField w = 4) :
    decode w = ifZero (reservedField w == 0 && !w.getLsbD 9 && !w.getLsbD 8 && dataField w == 0) .getcrc := by
  simp [decode, h]

theorem decode_op_getbytes {w : Command} (h : opField w = 5) :
    decode w = ifZero (reservedField w == 0 && !w.getLsbD 9 && dataField w == 0)
      (if w.getLsbD 8 then .getbytesLe else .getbytesBe) := by
  simp [decode, h]

theorem opSelects_eq_false_iff (w : Command) :
    opSelects w = false ↔ w.toNat / 2 ^ 12 = 0 ∨ 6 ≤ w.toNat / 2 ^ 12 := by
  rw [opSelects, opField_toNat, Bool.and_eq_false_iff, decide_eq_false_iff_not, decide_eq_false_iff_not]
  omega

theorem decode_no_op {w : Command} (h : opSelects w = false) : decode w = .illegal .noSuchOpcode := by
  rw [opSelects_eq_false_iff, ← opField_toNat] at h
  unfold decode
  split
  case h_6 => rfl
  all_goals omega

/-- The cases of the `op` field: one of the five operations, or none. -/
theorem opField_cases (w : Command) :
    opField w = 1 ∨ opField w = 2 ∨ opField w = 3 ∨ opField w = 4 ∨ opField w = 5 ∨ opSelects w = false := by
  simp only [opField_eq_iff, opSelects_eq_false_iff, BitVec.ofNat_eq_ofNat, BitVec.toNat_ofNat]
  omega

/-! ### Decoding against the reserved-field rules (R90, R91) -/

theorem reservedField_eq_zero_iff (w : Command) :
    reservedField w = 0 ↔ w.getLsbD 11 = false ∧ w.getLsbD 10 = false := by
  have bit (k : Nat) (hk : k < 2) : (reservedField w).getLsbD k = w.getLsbD (10 + k) := by
    simp [reservedField, BitVec.getLsbD_extractLsb', hk, -BitVec.getLsbD_eq_getElem]
  rw [← bit 1 (by decide), ← bit 0 (by decide)]
  generalize reservedField w = rsv
  revert rsv
  decide

/-- The five checks of R90 and R91 on the bits of a word. -/
theorem wellFormedWord_iff (w : Command) :
    wellFormedWord w = true ↔
      opSelects w = true ∧ (w.getLsbD 11 = false ∧ w.getLsbD 10 = false) ∧
      (w.toNat / 2 ^ 12 = 1 ∨ w.getLsbD 9 = false) ∧
      (w.toNat / 2 ^ 12 = 1 ∨ w.toNat / 2 ^ 12 = 5 ∨ w.getLsbD 8 = false) ∧
      (w.toNat / 2 ^ 12 = 1 ∨ w.toNat / 2 ^ 12 = 2 ∨ w.toNat % 2 ^ 8 = 0) := by
  have hdata : dataField w = 0 ↔ w.toNat % 2 ^ 8 = 0 := by rw [← dataField_toNat, BitVec.toNat_eq]; rfl
  simp only [wellFormedWord, reservedClear, flag1Clear, flag0Clear, dataClear, Bool.and_eq_true, Bool.or_eq_true,
    beq_iff_eq, Bool.not_eq_true', reservedField_eq_zero_iff, hdata, opField_eq_iff, and_assoc, or_assoc]
  rfl

/-- The four must-be-zero checks of R91, with the operation known. -/
theorem mustBeZero_eq {w : Command} {op : BitVec 4} (hop : opField w = op) :
    (reservedClear w && flag1Clear w && flag0Clear w && dataClear w) =
      (reservedField w == 0 && (op == 1 || !w.getLsbD 9) && (op == 1 || op == 5 || !w.getLsbD 8) &&
        (op == 1 || op == 2 || dataField w == 0)) := by
  subst hop
  rfl

/-- A word of a known operation is a command exactly if it passes the must-be-zero checks. -/
theorem decode_eq_ifZero {w : Command} (h : opSelects w = true) :
    ∃ i, decode w = ifZero (reservedClear w && flag1Clear w && flag0Clear w && dataClear w) i := by
  obtain hop | hop | hop | hop | hop | hop := opField_cases w
  · exact ⟨_, (decode_op_create hop).trans (congrArg (ifZero · _) (by simp [mustBeZero_eq hop]))⟩
  · exact ⟨_, (decode_op_digest hop).trans (congrArg (ifZero · _) (by simp [mustBeZero_eq hop]))⟩
  · exact ⟨_, (decode_op_reset hop).trans (congrArg (ifZero · _) (by simp [mustBeZero_eq hop]))⟩
  · exact ⟨_, (decode_op_getcrc hop).trans (congrArg (ifZero · _) (by simp [mustBeZero_eq hop]))⟩
  · exact ⟨_, (decode_op_getbytes hop).trans (congrArg (ifZero · _) (by simp [mustBeZero_eq hop]))⟩
  · simp [hop] at h

/-- A word that fails one of the five checks is no command. -/
theorem decode_illegal_of_not_wellFormed {w : Command} (h : wellFormedWord w = false) :
    ∃ why, decode w = .illegal why := by
  cases hop : opSelects w with
  | false => exact ⟨_, decode_no_op hop⟩
  | true =>
    obtain ⟨i, hi⟩ := decode_eq_ifZero hop
    rw [wellFormedWord, hop, Bool.true_and] at h
    exact ⟨_, by rw [hi, h]; rfl⟩

/-! ### Decoding against the opcode map (R88, R92) -/

/-- The row of the opcode map that a command stands in. -/
def Instr.row : Instr → OpcodeRow
  | .create .. => ⟨"CREATE", 0xFC00, 0x1000⟩
  | .digest .. => ⟨"DIGEST", 0xFF00, 0x2000⟩
  | .reset => ⟨"RESET", 0xFFFF, 0x3000⟩
  | .getcrc => ⟨"GETCRC", 0xFFFF, 0x4000⟩
  | .getbytesBe => ⟨"GETBYTES.BE", 0xFFFF, 0x5000⟩
  | .getbytesLe => ⟨"GETBYTES.LE", 0xFFFF, 0x5100⟩

theorem row_mnemonic (i : Instr) : i.row.mnemonic = i.mnemonic := by
  cases i <;> rfl

/-- The rows of the opcode map that a verdict stands for. -/
def Decoded.rows : Decoded → List OpcodeRow
  | .command i => [i.row]
  | .illegal _ => []

theorem rows_ifZero (zero : Bool) (i : Instr) : (ifZero zero i).rows = if zero then [i.row] else [] := by
  cases zero <;> rfl

/-- Every row's mask takes in the whole of the two high fields; the three low fields are compared under the mask. -/
theorem covers_iff_fields (r : OpcodeRow) (w : Command) (hop : opField r.mask = 15) (hrsv : reservedField r.mask = 3) :
    r.covers w = true ↔
      opField w = opField r.pattern ∧ reservedField w = reservedField r.pattern ∧
      (w.getLsbD 9 && r.mask.getLsbD 9) = r.pattern.getLsbD 9 ∧
      (w.getLsbD 8 && r.mask.getLsbD 8) = r.pattern.getLsbD 8 ∧
      dataField w &&& dataField r.mask = dataField r.pattern := by
  have hopAnd : opField (w &&& r.mask) = opField w := by
    rw [opField, BitVec.extractLsb'_and, ← opField, ← opField, hop]
    exact BitVec.and_allOnes
  have hrsvAnd : reservedField (w &&& r.mask) = reservedField w := by
    rw [reservedField, BitVec.extractLsb'_and, ← reservedField, ← reservedField, hrsv]
    exact BitVec.and_allOnes
  rw [OpcodeRow.covers, beq_iff_eq, word_eq_iff_fields, hopAnd, hrsvAnd, BitVec.getLsbD_and, BitVec.getLsbD_and,
    dataField, BitVec.extractLsb'_and]
  rfl

theorem covers_create (w : Command) :
    (⟨"CREATE", 0xFC00, 0x1000⟩ : OpcodeRow).covers w = true ↔ opField w = 1 ∧ reservedField w = 0 := by
  rw [covers_iff_fields _ w rfl rfl]
  simp [opField, reservedField, dataField]

theorem covers_digest (w : Command) :
    (⟨"DIGEST", 0xFF00, 0x2000⟩ : OpcodeRow).covers w = true ↔
      opField w = 2 ∧ reservedField w = 0 ∧ w.getLsbD 9 = false ∧ w.getLsbD 8 = false := by
  rw [covers_iff_fields _ w rfl rfl]
  simp [opField, reservedField, dataField]

open Laws.EncodesLegal in
/-- A row whose mask is all ones covers its pattern alone. -/
theorem covers_exact (name : String) {p : Command} (w : Command) {op : BitVec 4} {f1 f0 : Bool} {d : Byte}
    (hp : wordOf op f1 f0 d = p) :
    (⟨name, 0xFFFF, p⟩ : OpcodeRow).covers w = true ↔
      opField w = op ∧ reservedField w = 0 ∧ w.getLsbD 9 = f1 ∧ w.getLsbD 8 = f0 ∧ dataField w = d := by
  have hmask : w &&& 0xFFFF = w := BitVec.and_allOnes
  rw [OpcodeRow.covers, hmask, beq_iff_eq, word_eq_iff_fields, ← hp, opField_wordOf, reservedField_wordOf,
    flag1_wordOf, flag0_wordOf, dataField_wordOf]

theorem covers_reset (w : Command) : (⟨"RESET", 0xFFFF, 0x3000⟩ : OpcodeRow).covers w = true ↔
    opField w = 3 ∧ reservedField w = 0 ∧ w.getLsbD 9 = false ∧ w.getLsbD 8 = false ∧ dataField w = 0 :=
  covers_exact _ w rfl

theorem covers_getcrc (w : Command) : (⟨"GETCRC", 0xFFFF, 0x4000⟩ : OpcodeRow).covers w = true ↔
    opField w = 4 ∧ reservedField w = 0 ∧ w.getLsbD 9 = false ∧ w.getLsbD 8 = false ∧ dataField w = 0 :=
  covers_exact _ w rfl

theorem covers_getbytesBe (w : Command) : (⟨"GETBYTES.BE", 0xFFFF, 0x5000⟩ : OpcodeRow).covers w = true ↔
    opField w = 5 ∧ reservedField w = 0 ∧ w.getLsbD 9 = false ∧ w.getLsbD 8 = false ∧ dataField w = 0 :=
  covers_exact _ w rfl

theorem covers_getbytesLe (w : Command) : (⟨"GETBYTES.LE", 0xFFFF, 0x5100⟩ : OpcodeRow).covers w = true ↔
    opField w = 5 ∧ reservedField w = 0 ∧ w.getLsbD 9 = false ∧ w.getLsbD 8 = true ∧ dataField w = 0 :=
  covers_exact _ w rfl

/-- The rows that cover a word are the rows of its verdict: the command's own, or none. -/
theorem filter_covers_eq_rows (w : Command) : opcodeMap.filter (fun r => r.covers w) = (decode w).rows := by
  simp only [opcodeMap, List.filter_cons, List.filter_nil, covers_create, covers_digest, covers_reset, covers_getcrc,
    covers_getbytesBe, covers_getbytesLe]
  obtain hop | hop | hop | hop | hop | hop := opField_cases w
  · rw [decode_op_create hop, rows_ifZero]
    simp [hop, Instr.row]
  · rw [decode_op_digest hop, rows_ifZero]
    simp [hop, Instr.row, and_assoc]
  · rw [decode_op_reset hop, rows_ifZero]
    simp [hop, Instr.row, and_assoc]
  · rw [decode_op_getcrc hop, rows_ifZero]
    simp [hop, Instr.row, and_assoc]
  · rw [decode_op_getbytes hop, rows_ifZero]
    cases hf0 : w.getLsbD 8 <;> simp [hop, Instr.row, and_assoc]
  · have hne (op : BitVec 4) (h : 1 ≤ op.toNat ∧ op.toNat ≤ 5) : opField w ≠ op := by
      rintro rfl
      simp [opSelects, h] at hop
    rw [decode_no_op hop]
    simp [hne, Decoded.rows]

end Sys2Proof
end

section
/-! ### The outcome of an accepted word (R90, R91, R97) -/

namespace Sys2Proof.Machine

theorem step_illegal {s : State} {r : Request} {rest : List HostEvent} {why : Illegal} (hf : s.state ≠ .fault)
    (he : s.events = .command r :: rest) (hd : decode r.cmd = .illegal why) :
    step s = .next { s with
      events := rest, port := r, state := .fault, faultCode := .illegalCommand, faultInfo := r.cmd, rsp := none } := by
  rw [step_accepted he hf]
  simp [runWord, hd, raiseFault, State.sample, State.dropEvent, he]

theorem step_command {s : State} {r : Request} {rest : List HostEvent} {i : Instr} (hf : s.state ≠ .fault)
    (he : s.events = .command r :: rest) (hd : decode r.cmd = .command i) :
    step s = exec i (s.dropEvent.sample r) := by
  rw [step_accepted he hf]
  simp [runWord, hd]

/-- A word that fails a check of R90 or R91 raises IllegalCommand, in UNCONFIGURED and READY alike. -/
theorem step_not_wellFormed {s : State} {r : Request} {rest : List HostEvent} (hf : s.state ≠ .fault)
    (he : s.events = .command r :: rest) (hw : wellFormedWord r.cmd = false) :
    step s = .next { s with
      events := rest, port := r, state := .fault, faultCode := .illegalCommand, faultInfo := r.cmd, rsp := none } :=
  let ⟨_, hd⟩ := decode_illegal_of_not_wellFormed hw
  step_illegal hf he hd

theorem exec_unconfigured {i : Instr} {s : State} (hi : i.isCreate = false) (hs : s.state = .unconfigured) :
    exec i s = .next (raiseFault .notConfigured s) := by
  cases i with
  | create => cases hi
  | _ => exact whenReady_unconfigured hs

/-- A command other than CREATE leaves the lifecycle state and the fault code in READY. -/
theorem readyEffect_status {i : Instr} (hi : i.isCreate = false) (s : State) :
    (readyEffect i s).state = s.state ∧ (readyEffect i s).faultCode = s.faultCode := by
  cases i with
  | create => cases hi
  | _ => exact ⟨rfl, rfl⟩

/-- The state check (R97, R192): what an accepted command other than CREATE makes of the status. -/
theorem exec_status_of_not_create {i : Instr} {s : State} (hi : i.isCreate = false) (hf : s.state ≠ .fault) :
    ∃ t, exec i s = .next t ∧ (t.state, t.faultCode) =
      if s.state = .unconfigured then (EngineState.fault, FaultCode.notConfigured) else (.ready, s.faultCode) := by
  cases hs : s.state with
  | unconfigured => exact ⟨_, exec_unconfigured hi hs, rfl⟩
  | ready =>
    obtain ⟨hstate, hcode⟩ := readyEffect_status hi s
    exact ⟨_, exec_ready i hs, by rw [hstate, hcode, hs]; rfl⟩
  | fault => exact absurd hs hf

/-- The range check (R97, R130): what an accepted CREATE makes of the status. -/
theorem exec_create_status (reorder reflect : Bool) (bits : Byte) {s : State} (hf : s.state ≠ .fault) :
    ∃ t, exec (.create reorder reflect bits) s = .next t ∧ (t.state, t.faultCode) =
      if bits.toNat = 0 ∨ 64 < bits.toNat then (EngineState.fault, FaultCode.configFault)
      else (.ready, s.faultCode) := by
  refine ⟨createEffect reorder reflect bits s, whenAccepting_accepting hf, ?_⟩
  cases hb : bitsInRange bits with
  | true =>
    have hin := (bitsInRange_iff bits).mp hb
    rw [createEffect_in_range reorder reflect s hb, if_neg (by omega)]
    rfl
  | false =>
    have hout := mt (bitsInRange_iff bits).mpr (by simp [hb])
    rw [createEffect_out_of_range reorder reflect s hb, if_pos (by omega)]
    rfl

end Sys2Proof.Machine
end

section
/-! ### The obligations -/

open Sys2Proof Sys2Proof.Machine

/-- Settles O3: the rows that cover a word are the rows of its verdict. -/
theorem everyWordHasExactlyOneVerdict : Obligations.EveryWordHasExactlyOneVerdict := by
  intro w
  rw [filter_covers_eq_rows]
  cases hd : decode w with
  | illegal why => exact ⟨⟨fun _ => rfl, fun _ => ⟨why, rfl⟩⟩, fun i hi => nomatch hi⟩
  | command i =>
    refine ⟨⟨fun ⟨_, hwhy⟩ => (nomatch hwhy), fun hnil => (nomatch hnil)⟩, fun j hj => ?_⟩
    cases hj
    simp [Decoded.rows, row_mnemonic]

/-- Settles O6: such a word fails the first check of the decoder. -/
theorem unknownOpcodeRaisesIllegalCommand : Obligations.UnknownOpcodeRaisesIllegalCommand := by
  intro s r rest hf he hop
  have hsel : opSelects r.cmd = false := (opSelects_eq_false_iff r.cmd).mpr hop
  exact step_not_wellFormed hf he (by simp [wellFormedWord, hsel])

/-- Settles O7: each of the five kinds of position fails a must-be-zero check of its own. -/
theorem reservedBitRaisesIllegalCommand : Obligations.ReservedBitRaisesIllegalCommand := by
  intro s r rest hf he hbit
  refine step_not_wellFormed hf he (Bool.eq_false_iff.mpr fun hw => ?_)
  obtain ⟨-, ⟨hbit11, hbit10⟩, hflag1, hflag0, hzero⟩ := (wellFormedWord_iff r.cmd).mp hw
  obtain ⟨-, -, h11 | h10 | ⟨hop, h9⟩ | ⟨hop, h8⟩ | ⟨hop, hdata⟩⟩ := hbit
  · exact Bool.eq_false_iff.mp hbit11 h11
  · exact Bool.eq_false_iff.mp hbit10 h10
  · exact hflag1.elim hop (Bool.eq_false_iff.mp · h9)
  · obtain h1 | h5 | hbit8 := hflag0
    · omega
    · omega
    · exact Bool.eq_false_iff.mp hbit8 h8
  · omega

/-- Settles O13: decode, then the state check or, for CREATE, the range check. -/
theorem checksRunInOrder : Obligations.ChecksRunInOrder := by
  intro s r rest hf he
  cases hd : decode r.cmd with
  | illegal why => exact ⟨_, step_illegal hf he hd, rfl⟩
  | command i =>
    rw [step_command hf he hd]
    have haccept : (s.dropEvent.sample r).state ≠ .fault := hf
    cases i with
    | create reorder reflect bits => simpa [Instr.isCreate] using exec_create_status reorder reflect bits haccept
    | _ =>
      exact (exec_status_of_not_create (by rfl) haccept).imp fun t ⟨ht, hstatus⟩ =>
        ⟨ht, hstatus.trans (if_congr (and_iff_right rfl).symm rfl rfl)⟩

end

section
/-! PROOFS. The bit-reflection unit (spec/40_bit_reflector.md): what one pass of the loop does, the closed form, and the
corner cases, which follow from it bit by bit. -/

namespace Sys2Proof.Machine

/-! ### The loop (R110) -/

theorem twoPow_zero_shiftRight_one : BitVec.twoPow 64 0 >>> 1 = 0 := by decide

theorem twoPow_succ_shiftRight_one {m : Nat} (hm : m + 1 < 64) :
    BitVec.twoPow 64 (m + 1) >>> 1 = BitVec.twoPow 64 m := by
  refine BitVec.eq_of_getLsbD_eq fun k _ => ?_
  have hk : m + 1 = 1 + k ↔ m = k := by omega
  simp [BitVec.getLsbD_twoPow, hm, Nat.lt_of_succ_lt hm, hk]

theorem twoPow_succ_eq_shiftLeft_one (j : Nat) : BitVec.twoPow 64 j <<< 1 = BitVec.twoPow 64 (j + 1) := by
  simp only [BitVec.twoPow_eq, BitVec.shiftLeft_add]

theorem twoPow_ne_zero {m : Nat} (hm : m < 64) : BitVec.twoPow 64 m ≠ 0 := fun h => by
  simpa [BitVec.getLsbD_twoPow, hm] using congrArg (BitVec.getLsbD · m) h

theorem reflectLoop_zero (n : Word) (passes : Nat) (j out : Word) : reflectLoop n passes 0 j out = out := by
  cases passes with
  | zero => rfl
  | succ passes => exact if_pos rfl

/-- One pass of the loop, the masks being `2^m` and `2^j`. -/
theorem reflectLoop_twoPow (n : Word) (passes : Nat) {m : Nat} (hm : m < 64) (j : Nat) (out : Word) :
    reflectLoop n (passes + 1) (BitVec.twoPow 64 m) (BitVec.twoPow 64 j) out =
      reflectLoop n passes (BitVec.twoPow 64 m >>> 1) (BitVec.twoPow 64 (j + 1))
        (if n.getLsbD m then out ||| BitVec.twoPow 64 j else out) := by
  have hne := twoPow_ne_zero hm
  rw [reflectLoop, if_neg hne, twoPow_succ_eq_shiftLeft_one, BitVec.and_twoPow]
  cases n.getLsbD m with
  | false => rfl
  | true => rw [if_pos rfl, if_neg hne, if_pos rfl]

/-- The output after a pass whose tested bit of `n` is `bit`. -/
theorem getLsbD_ite_or_twoPow {j : Nat} (hj : j < 64) (bit : Bool) (out : Word) (k : Nat) :
    (if bit then out ||| BitVec.twoPow 64 j else out).getLsbD k = (out.getLsbD k || (decide (j = k) && bit)) := by
  cases bit <;> simp [BitVec.getLsbD_twoPow, hj]

/-- From the masks `2^m` and `2^j` the loop moves bits `m` down to 0 of `n` to positions `j` up to `j + m`. -/
theorem getLsbD_reflectLoop (n : Word) (k m : Nat) : ∀ (passes j : Nat) (out : Word), m < passes → j + m < 64 →
    (reflectLoop n passes (BitVec.twoPow 64 m) (BitVec.twoPow 64 j) out).getLsbD k =
      (out.getLsbD k || (decide (j ≤ k ∧ k ≤ j + m) && n.getLsbD (j + m - k))) := by
  induction m with
  | zero =>
    intro passes j out hp hj
    obtain ⟨passes, rfl⟩ := Nat.exists_eq_add_one_of_ne_zero (Nat.ne_of_gt hp)
    rw [reflectLoop_twoPow n passes (by omega), twoPow_zero_shiftRight_one, reflectLoop_zero,
      getLsbD_ite_or_twoPow (Nat.lt_of_add_right_lt hj)]
    by_cases hk : j = k
    · simp [hk]
    · have hout : ¬ (j ≤ k ∧ k ≤ j + 0) := by omega
      simp only [hk, hout, decide_false, Bool.false_and]
  | succ m ih =>
    intro passes j out hp hj
    obtain ⟨passes, rfl⟩ := Nat.exists_eq_add_one_of_ne_zero (Nat.ne_of_gt (Nat.zero_lt_of_lt hp))
    rw [reflectLoop_twoPow n passes (by omega), twoPow_succ_shiftRight_one (by omega),
      ih passes (j + 1) _ (by omega) (by omega), getLsbD_ite_or_twoPow (by omega),
      Nat.add_assoc j 1 m, Nat.add_comm 1 m]
    by_cases hk : j = k
    · have hout : ¬ (j + 1 ≤ k ∧ k ≤ j + (m + 1)) := by omega
      simp [hk]
    · have hsame : (j + 1 ≤ k ∧ k ≤ j + (m + 1)) ↔ (j ≤ k ∧ k ≤ j + (m + 1)) := by omega
      simp only [hk, hsame, decide_false, Bool.false_and, Bool.or_false]

/-! ### The closed form (R110) and the corner cases (R111)

`b` is the width, 1 to 64, and `2^(b-1)` the one-hot mask of its highest bit. -/

theorem ofNat_two_pow (i : Nat) : BitVec.ofNat 64 (2 ^ i) = BitVec.twoPow 64 i :=
  BitVec.eq_of_toNat_eq (by rw [BitVec.toNat_ofNat, BitVec.toNat_twoPow])

theorem one_eq_twoPow : (1 : Word) = BitVec.twoPow 64 0 := rfl

section
variable {b : Nat} (hb : 1 ≤ b) (hb64 : b ≤ 64)
include hb hb64

theorem getLsbD_reflectBits (n : Word) (k : Nat) :
    (reflectBits (BitVec.twoPow 64 (b - 1)) n).getLsbD k = (decide (k < b) && n.getLsbD (b - 1 - k)) := by
  have hk : k ≤ b - 1 ↔ k < b := by omega
  rw [reflectBits, one_eq_twoPow, getLsbD_reflectLoop n k (b - 1) 64 0 0 (by omega) (by omega)]
  simp [hk]

theorem reflectBits_toNat_lt (n : Word) : (reflectBits (BitVec.twoPow 64 (b - 1)) n).toNat < 2 ^ b :=
  Nat.lt_pow_two_of_testBit _ fun k hk => by
    rw [BitVec.testBit_toNat, getLsbD_reflectBits hb hb64, decide_eq_false (Nat.not_lt.mpr hk), Bool.false_and]

/-- Words with the same low `b` bits have the same reflection. -/
theorem reflectBits_congr {n m : Word} (h : n.toNat % 2 ^ b = m.toNat % 2 ^ b) :
    reflectBits (BitVec.twoPow 64 (b - 1)) n = reflectBits (BitVec.twoPow 64 (b - 1)) m := by
  refine BitVec.eq_of_getLsbD_eq fun k _ => ?_
  have hlow := congrArg (Nat.testBit · (b - 1 - k)) h
  have hpos : b - 1 - k < b := by omega
  simp only [Nat.testBit_mod_two_pow, hpos, decide_true, Bool.true_and, BitVec.testBit_toNat] at hlow
  rw [getLsbD_reflectBits hb hb64, getLsbD_reflectBits hb hb64, hlow]

theorem reflectBits_reflectBits_toNat (n : Word) :
    (reflectBits (BitVec.twoPow 64 (b - 1)) (reflectBits (BitVec.twoPow 64 (b - 1)) n)).toNat =
      n.toNat % 2 ^ b := by
  refine Nat.eq_of_testBit_eq fun k => ?_
  rw [Nat.testBit_mod_two_pow, BitVec.testBit_toNat, BitVec.testBit_toNat, getLsbD_reflectBits hb hb64,
    getLsbD_reflectBits hb hb64]
  by_cases hk : k < b
  · have hpos : b - 1 - k < b := by omega
    have hback : b - 1 - (b - 1 - k) = k := by omega
    simp only [hpos, hback, decide_true, Bool.true_and]
  · simp only [hk, decide_false, Bool.false_and]

theorem reflectBits_xor (n m : Word) :
    reflectBits (BitVec.twoPow 64 (b - 1)) (n ^^^ m) =
      reflectBits (BitVec.twoPow 64 (b - 1)) n ^^^ reflectBits (BitVec.twoPow 64 (b - 1)) m := by
  refine BitVec.eq_of_getLsbD_eq fun k _ => ?_
  simp only [BitVec.getLsbD_xor, getLsbD_reflectBits hb hb64, Bool.and_xor_distrib_left]

theorem reflectBits_zero : reflectBits (BitVec.twoPow 64 (b - 1)) 0 = 0 := by
  refine BitVec.eq_of_getLsbD_eq fun k _ => ?_
  simp [getLsbD_reflectBits hb hb64]

theorem reflectBits_allOnes :
    reflectBits (BitVec.twoPow 64 (b - 1)) (BitVec.ofNat 64 (2 ^ b - 1)) = BitVec.ofNat 64 (2 ^ b - 1) := by
  refine BitVec.eq_of_getLsbD_eq fun k hk => ?_
  have hpos : b - 1 - k < b := by omega
  have hpos64 : b - 1 - k < 64 := by omega
  simp only [getLsbD_reflectBits hb hb64, BitVec.getLsbD_ofNat, Nat.testBit_two_pow_sub_one, hk, hpos, hpos64,
    decide_true, Bool.true_and, Bool.and_true]

end

/-- The reflection of one bit: the case `b = 1`. -/
theorem reflectBits_one (n : Word) : reflectBits 1 n = n &&& 1 := by
  rw [one_eq_twoPow, BitVec.and_twoPow]
  refine BitVec.eq_of_getLsbD_eq fun k _ => ?_
  rw [getLsbD_reflectBits (b := 1) le_rfl (by decide) n k, apply_ite (BitVec.getLsbD · k)]
  cases k <;> simp [BitVec.getLsbD_twoPow]

end Sys2Proof.Machine
end

section
/-! ### The obligations on the bit-reflection unit -/

open Sys2Proof Sys2Proof.Machine

/-- Settles O20: the loop moves bits `b - 1` down to 0 to positions 0 up to `b - 1`. -/
theorem reflectionClosedForm : Obligations.ReflectionClosedForm :=
  fun b n hb hb64 k => by rw [ofNat_two_pow, getLsbD_reflectBits hb hb64]

/-- Settles O21: each case from the closed form. -/
theorem reflectionCornerCases : Obligations.ReflectionCornerCases := by
  refine ⟨fun b n m hb hb64 => ?_, reflectBits_one, by decide, by decide, by decide +kernel⟩
  rw [ofNat_two_pow]
  exact ⟨reflectBits_toNat_lt hb hb64 n, reflectBits_congr hb hb64, reflectBits_reflectBits_toNat hb hb64 n,
    reflectBits_xor hb hb64 n m, reflectBits_zero hb hb64, reflectBits_allOnes hb hb64⟩

/-- Settles O22: the loop run on the ten examples. -/
theorem reflectionWorkedExamples : Obligations.ReflectionWorkedExamples := by
  unfold Obligations.ReflectionWorkedExamples
  decide +kernel

end

section
/-! PROOFS. CREATE (spec/42_create.md): the width selector, the values CREATE derives from its operands, and the table
words it builds. -/

namespace Sys2Proof.Machine

/-! ### The width selector (R131) -/

/-- The four ranges of `bits`, with the width of each. -/
theorem widthSelect_ranges {n : Nat} (hn : n ≤ 64) :
    (n ≤ 8 ∧ widthSelect n = 8) ∨ (9 ≤ n ∧ n ≤ 16 ∧ widthSelect n = 16) ∨
      (17 ≤ n ∧ n ≤ 32 ∧ widthSelect n = 32) ∨ (33 ≤ n ∧ widthSelect n = 64) := by
  unfold widthSelect
  split_ifs <;> omega

theorem le_widthSelect {n : Nat} (hn : n ≤ 64) : n ≤ widthSelect n := by
  have hranges := widthSelect_ranges hn
  omega

theorem widthSelect_le (n : Nat) : widthSelect n ≤ 64 := by
  have hcases := widthSelect_cases n
  omega

/-! ### The operands (R89, R134) -/

theorem busOperand_eq_ofNat {w : Nat} (hw : w ≤ 64) (bus : Word) :
    busOperand w bus = BitVec.ofNat 64 (bus.toNat % 2 ^ w) := by
  rw [busOperand, ← narrow_toNat w bus hw, BitVec.ofNat_toNat, BitVec.setWidth_eq]

theorem getLsbD_ofNat_allOnes (n k : Nat) :
    (BitVec.ofNat 64 (2 ^ n - 1)).getLsbD k = (decide (k < 64) && decide (k < n)) := by
  rw [BitVec.getLsbD_ofNat, Nat.testBit_two_pow_sub_one]

section
variable {w n : Nat} (hpos : 1 ≤ n) (hn : n ≤ w) (hw : w ≤ 64)
include hpos hn hw

theorem highBitOf_eq : highBitOf w n = BitVec.ofNat 64 (2 ^ (n - 1)) := by
  have hfits : (BitVec.twoPow 64 (n - 1)).toNat < 2 ^ w := by
    rw [BitVec.toNat_twoPow_of_lt (by omega)]
    exact Nat.pow_lt_pow_right (by decide) (by omega)
  exact (narrow_of_lt w _ hfits).trans (ofNat_two_pow _).symm

/-- Below the highest bit all ones, moved up by one place, with the freed bit 0 set: all ones up to the highest bit. -/
theorem maskOf_highBitOf : maskOf w (highBitOf w n) = BitVec.ofNat 64 (2 ^ n - 1) := by
  have hbelow : highBitOf w n - 1 = BitVec.ofNat 64 (2 ^ (n - 1) - 1) := by
    rw [highBitOf_eq hpos hn hw]
    exact BitVec.ofNat_sub_ofNat_of_le _ _ (by decide) Nat.one_le_two_pow
  refine BitVec.eq_of_getLsbD_eq fun k hk => ?_
  rw [maskOf, hbelow, BitVec.getLsbD_or, getLsbD_shiftLeft, BitVec.getLsbD_shiftLeft, getLsbD_ofNat_allOnes,
    getLsbD_ofNat_allOnes, one_eq_twoPow, BitVec.getLsbD_twoPow, Bool.eq_iff_iff]
  simp only [Bool.or_eq_true, Bool.and_eq_true, Bool.not_eq_true', decide_eq_true_eq, decide_eq_false_iff_not]
  omega

end

/-! ### The mode (R132), the `poly` register (R135) and the table (R120) -/

theorem byTableOf_iff (n : Nat) : byTableOf n = true ↔ n % 8 = 0 := beq_iff_eq

theorem polyRegister_byTableOf (n : Nat) (reflect : Bool) (highBit p : Word) :
    polyRegister (byTableOf n) reflect highBit p = if n % 8 ≠ 0 ∧ reflect = true then reflectBits highBit p else p := by
  simp [polyRegister, byTableOf]

theorem configure_tblWord (reorder reflect : Bool) {bits : Byte} (s : State) (ht : bits.toNat % 8 = 0) (i : Byte) :
    (configure reorder reflect bits s).tblWord i =
      if reflect then reflectedWord (busOperand (widthSelect bits.toNat) s.port.pPoly) i.toNat
      else forwardWord (widthSelect bits.toNat) (busOperand (widthSelect bits.toNat) s.port.pPoly) bits.toNat i.toNat := by
  have htbl := (configure_tbl reorder reflect bits s).trans (if_pos ((byTableOf_iff _).mpr ht))
  cases reflect with
  | false => exact tblWord_of_fill _ _ htbl i
  | true => exact tblWord_of_fill _ _ htbl i

/-! ### An accepted CREATE in range (R130) -/

theorem exec_create_in_range (reorder reflect : Bool) {bits : Byte} {s : State} (hf : s.state ≠ .fault)
    (hpos : 1 ≤ bits.toNat) (hle : bits.toNat ≤ 64) :
    exec (.create reorder reflect bits) s = .next (configure reorder reflect bits s) := by
  rw [← createEffect_in_range reorder reflect s ((bitsInRange_iff bits).mpr ⟨hpos, hle⟩)]
  exact whenAccepting_accepting hf

end Sys2Proof.Machine
end

section
/-! ### The obligations on CREATE -/

open Sys2Proof Sys2Proof.Machine

/-- Settles O25: range by range. -/
theorem widthSelectorIsTheNarrowest : Obligations.WidthSelectorIsTheNarrowest := by
  intro bits hpos hle
  obtain ⟨hr, hw⟩ | ⟨hr, hr', hw⟩ | ⟨hr, hr', hw⟩ | ⟨hr, hw⟩ := widthSelect_ranges hle
  all_goals
    simp only [hw, List.mem_cons, List.not_mem_nil, or_false, forall_eq_or_imp, forall_eq, implies_true,
      true_and]
    omega

/-- Settles O26: the registers of `configure`, with the derived values in closed form. -/
theorem createConfiguresTheEngine : Obligations.CreateConfiguresTheEngine := by
  intro s reorder reflect bits hf hpos hle
  have hcover := le_widthSelect hle
  have hw := widthSelect_le bits.toNat
  have hhigh := highBitOf_eq hpos hcover hw
  have hbus (bus : Word) := busOperand_eq_ofNat hw bus
  refine ⟨configure reorder reflect bits s, exec_create_in_range reorder reflect hf hpos hle, rfl,
    configure_width reorder reflect bits s, rfl, rfl, rfl, byTableOf_iff bits.toNat, hhigh,
    maskOf_highBitOf hpos hcover hw, hbus _, hbus _, ?poly, ?sum, fun ht i => ?table, rfl, rfl, rfl, rfl, rfl, rfl⟩
  case poly =>
    rw [configure_poly, polyRegister_byTableOf, hhigh, hbus]
    rfl
  case sum =>
    rw [configure_sum, seedOf, hhigh, hbus]
    rfl
  case table =>
    rw [configure_tblWord reorder reflect s ht, hbus]
    rfl

end

section
/-! PROOFS. DIGEST (spec/43_digest.md): the four update rules in arithmetic form, each of them a `W`-bit value. -/

namespace Sys2Proof.Machine

/-! ### Shifts, truncation and sums of cells in arithmetic form (R8, R9) -/

theorem shiftLeft_eq_ofNat {w : Nat} (hw : w ≤ 64) (v : Word) (k : Nat) :
    shiftLeft w v k = BitVec.ofNat 64 (v.toNat * 2 ^ k % 2 ^ w) := by
  have hdrop : (v <<< k).toNat % 2 ^ w = v.toNat * 2 ^ k % 2 ^ w := by
    rw [BitVec.toNat_shiftLeft, Nat.shiftLeft_eq, Nat.mod_mod_of_dvd _ (Nat.pow_dvd_pow 2 hw)]
  rw [← hdrop, ← narrow_toNat w _ hw, BitVec.ofNat_toNat, BitVec.setWidth_eq, shiftLeft]

theorem ushiftRight_eq_ofNat (v : Word) (k : Nat) : v >>> k = BitVec.ofNat 64 (v.toNat / 2 ^ k) := by
  rw [← Nat.shiftRight_eq_div_pow, ← BitVec.toNat_ushiftRight, BitVec.ofNat_toNat, BitVec.setWidth_eq]

theorem lowByte_eq_ofNat (v : Word) : v.setWidth 8 = BitVec.ofNat 8 (v.toNat % 2 ^ 8) :=
  BitVec.eq_of_toNat_eq (by simp)

theorem shiftLeft_lt (w : Nat) (v : Word) (k : Nat) : (shiftLeft w v k).toNat < 2 ^ w := narrow_lt w _

theorem ushiftRight_lt {w : Nat} {v : Word} (hv : v.toNat < 2 ^ w) (k : Nat) : (v >>> k).toNat < 2 ^ w := by
  rw [BitVec.toNat_ushiftRight]
  exact lt_of_le_of_lt (Nat.shiftRight_le _ _) hv

theorem xor_lt {w : Nat} {u v : Word} (hu : u.toNat < 2 ^ w) (hv : v.toNat < 2 ^ w) : (u ^^^ v).toNat < 2 ^ w := by
  rw [BitVec.toNat_xor]
  exact Nat.xor_lt_two_pow hu hv

/-! ### The table rules (R151 to R153) -/

theorem ruleA_eq (byte : Byte) (s : State) : ruleA byte s = s.tblWord (s.sum.setWidth 8 ^^^ byte) := by
  rw [ruleA, BitVec.setWidth_xor, BitVec.setWidth_setWidth_of_le _ (by decide), BitVec.setWidth_eq]

theorem ruleB_eq (byte : Byte) (s : State) :
    ruleB byte s =
      BitVec.ofNat 64 (s.sum.toNat / 2 ^ 8) ^^^ s.tblWord (BitVec.ofNat 8 (s.sum.toNat % 2 ^ 8) ^^^ byte) := by
  rw [ruleB, ushiftRight_eq_ofNat, lowByte_eq_ofNat]

theorem ruleC_eq (byte : Byte) (s : State) :
    ruleC byte s =
      BitVec.ofNat 64 (s.sum.toNat * 2 ^ 8 % 2 ^ s.width) ^^^
        s.tblWord (BitVec.ofNat 8 (s.sum.toNat / 2 ^ (s.bits.toNat - 8) % 2 ^ 8) ^^^ byte) := by
  rw [ruleC, shiftLeft_eq_ofNat (width_le s), lowByte_eq_ofNat, BitVec.toNat_ushiftRight, Nat.shiftRight_eq_div_pow]

theorem ruleA_lt {s : State} (hs : s.CellsFit) (byte : Byte) : (ruleA byte s).toNat < 2 ^ s.width :=
  tblWord_lt s hs.tbl _

theorem ruleB_lt {s : State} (hs : s.CellsFit) (byte : Byte) : (ruleB byte s).toNat < 2 ^ s.width :=
  xor_lt (ushiftRight_lt hs.sum 8) (tblWord_lt s hs.tbl _)

theorem ruleC_lt {s : State} (hs : s.CellsFit) (byte : Byte) : (ruleC byte s).toNat < 2 ^ s.width :=
  xor_lt (shiftLeft_lt _ _ _) (tblWord_lt s hs.tbl _)

/-! ### The bitwise rule (R154, R158) -/

/-- The reversal of a byte by the bit-reflection unit is its reversal bit by bit (R112). -/
theorem reflectByte_eq_reverse (b : Byte) : reflectByte b = b.reverse := by
  refine BitVec.eq_of_getLsbD_eq fun k hk => ?_
  have hclosed := getLsbD_reflectBits (b := 8) (by decide) (by decide) (b.setWidth 64) k
  have hmask : (0x80 : Word) = BitVec.twoPow 64 (8 - 1) := rfl
  have hk64 : 7 - k < 64 := by omega
  rw [reflectByte, BitVec.getLsbD_setWidth, hmask, hclosed, BitVec.getLsbD_setWidth, BitVec.getLsbD_reverse,
    BitVec.getMsbD]
  simp [hk, hk64]

/-- The test against the one-hot mask of a bit reads the bit. -/
theorem and_oneHot_ne_zero {m : Nat} (hm : m < 64) (v : Word) :
    (v &&& BitVec.ofNat 64 (2 ^ m) != 0) = v.getLsbD m := by
  rw [ofNat_two_pow, BitVec.and_twoPow]
  cases v.getLsbD m with
  | false => rfl
  | true => exact bne_iff_ne.mpr (twoPow_ne_zero hm)

/-- One bit of rule d: the tested bit and the input bit together decide the XOR. -/
theorem bitStep_eq_ite (w : Nat) (highBit poly v : Word) (input : Bool) :
    bitStep w highBit poly v input =
      if Bool.xor (v &&& highBit != 0) input then shiftLeft w v 1 ^^^ poly else shiftLeft w v 1 := by
  rw [bitStep]
  cases input with
  | false => rw [Bool.xor_false]; rfl
  | true => rw [Bool.xor_true]; rfl

/-- The same with the tested bit named by its position. -/
theorem bitStep_oneHot {w m : Nat} (hw : w ≤ 64) (hm : m < 64) (poly v : Word) (input : Bool) :
    bitStep w (BitVec.ofNat 64 (2 ^ m)) poly v input =
      let shifted := BitVec.ofNat 64 (v.toNat * 2 % 2 ^ w)
      if Bool.xor (v.getLsbD m) input then shifted ^^^ poly else shifted := by
  rw [bitStep_eq_ite, and_oneHot_ne_zero hm, shiftLeft_eq_ofNat hw]
  rfl

theorem bitStep_lt {w : Nat} {poly : Word} (hp : poly.toNat < 2 ^ w) (highBit v : Word) (input : Bool) :
    (bitStep w highBit poly v input).toNat < 2 ^ w := by
  rw [bitStep_eq_ite]
  split
  · exact xor_lt (shiftLeft_lt w v 1) hp
  · exact shiftLeft_lt w v 1

theorem bitsFromTop_eq_map_range (n : Byte) : bitsFromTop n = (List.range 8).map fun k => n.getLsbD (7 - k) := rfl

theorem foldl_bitStep_lt {w : Nat} {poly : Word} (hp : poly.toNat < 2 ^ w) (highBit : Word) (inputs : List Bool) :
    ∀ v : Word, v.toNat < 2 ^ w → (inputs.foldl (bitStep w highBit poly) v).toNat < 2 ^ w := by
  induction inputs with
  | nil => exact fun v hv => hv
  | cons input rest ih => exact fun v _ => ih _ (bitStep_lt hp highBit v input)

theorem ruleD_eq {s : State} (hs : s.Configured) (byte : Byte) :
    ruleD byte s =
      let n := if s.reflect then byte.reverse else byte
      (List.range 8).foldl
        (fun v k =>
          let shifted := BitVec.ofNat 64 (v.toNat * 2 % 2 ^ s.width)
          if Bool.xor (v.getLsbD (s.bits.toNat - 1)) (n.getLsbD (7 - k)) then shifted ^^^ s.poly else shifted)
        s.sum := by
  have hpos := hs.bitsPos
  have hle := hs.bitsLe
  have hm : s.bits.toNat - 1 < 64 := by omega
  rw [ruleD, bitSerial, bitsFromTop_eq_map_range, List.foldl_map, hs.highBit, reflectByte_eq_reverse]
  simp only [bitStep_oneHot (width_le s) hm]

theorem ruleD_lt {s : State} (hs : s.CellsFit) (byte : Byte) : (ruleD byte s).toNat < 2 ^ s.width :=
  foldl_bitStep_lt hs.poly _ _ _ hs.sum

/-! ### DIGEST in READY (R150) -/

/-- DIGEST writes the selected rule's value, which needs no truncation, answers no response, and leaves everything
else. -/
theorem exec_digest_ready {s : State} {byte : Byte} {r v : Word} (hs : s.state = .ready)
    (hrule : digestSum byte s = r) (hfit : r.toNat < 2 ^ s.width) (hr : r = v) :
    exec (.digest byte) s = .next { s with sum := v, rsp := none } := by
  rw [exec_ready _ hs, readyEffect, digestEffect, hrule, State.writeSum, narrow_of_lt _ _ hfit, State.noResponse, hr]

end Sys2Proof.Machine
end

section
/-! ### The obligations on DIGEST -/

open Sys2Proof Sys2Proof.Machine

/-- Settles O30: rule a, whose value is a table word. -/
theorem digestByRuleA : Obligations.DigestByRuleA := fun s byte hinv hs ht h8 =>
  exec_digest_ready hs (digestSum_ruleA byte ht h8) (ruleA_lt hinv.cells byte) (ruleA_eq byte s)

/-- Settles O31: rule b, with the shift and the low byte in arithmetic form. -/
theorem digestByRuleB : Obligations.DigestByRuleB := fun s byte hinv hs ht h8 hr =>
  exec_digest_ready hs (digestSum_ruleB byte ht h8 hr) (ruleB_lt hinv.cells byte) (ruleB_eq byte s)

/-- Settles O32: rule c, with the shifts and the truncation in arithmetic form. -/
theorem digestByRuleC : Obligations.DigestByRuleC := fun s byte hinv hs ht h8 hr =>
  exec_digest_ready hs (digestSum_ruleC byte ht h8 hr) (ruleC_lt hinv.cells byte) (ruleC_eq byte s)

/-- Settles O33: rule d, whose one-hot test in READY reads bit `bits - 1`. -/
theorem digestByRuleD : Obligations.DigestByRuleD := fun _ byte hinv hs ht =>
  exec_digest_ready hs (digestSum_ruleD byte ht) (ruleD_lt hinv.cells byte) (ruleD_eq (hinv.ready hs) byte)

end

section
/-! PROOFS. The RESET command (spec/44_reset_cmd.md): the working form of `initial` is a `W`-bit value, so RESET writes
it whole. -/

namespace Sys2Proof.Machine

/-! ### The working form of `initial` (R136, R170) -/

/-- The selected width holds the CRC (R131). -/
theorem bits_le_width {s : State} (hs : s.Configured) : s.bits.toNat ≤ s.width := by
  rw [hs.width]
  exact le_widthSelect hs.bitsLe

/-- A reflection under the `high_bit` of a configured engine is a `bits`-bit value, whatever the reflected word. -/
theorem reflectBits_highBit_lt {s : State} (hs : s.Configured) (v : Word) :
    (reflectBits s.highBit v).toNat < 2 ^ s.bits.toNat := by
  rw [hs.highBit, ofNat_two_pow]
  exact reflectBits_toNat_lt hs.bitsPos hs.bitsLe v

theorem seed_lt {s : State} (hcells : s.CellsFit) (hs : s.Configured) : s.seed.toNat < 2 ^ s.width := by
  rw [State.seed, seedOf]
  split
  · exact lt_of_lt_of_le (reflectBits_highBit_lt hs s.initial) (Nat.pow_le_pow_right (by decide) (bits_le_width hs))
  · exact hcells.initial

/-! ### RESET in READY (R170) -/

theorem exec_reset_ready {s : State} (hinv : s.Inv) (hs : s.state = .ready) :
    exec .reset s = .next { s with sum := s.seed, rsp := none } := by
  have hfit := seed_lt hinv.cells (hinv.ready hs)
  rw [exec_ready _ hs, readyEffect, resetEffect, State.writeSum, narrow_of_lt _ _ hfit, State.noResponse]

end Sys2Proof.Machine
end

section
/-! ### The obligation on RESET -/

open Sys2Proof Sys2Proof.Machine

/-- Settles O39: RESET writes the seed, which is the expression that the statement writes out. -/
theorem resetInstallsTheWorkingForm : Obligations.ResetInstallsTheWorkingForm := fun _ hinv hs =>
  exec_reset_ready hinv hs

end

section
/-! PROOFS. The bytes of a word: what the packing of the response port (R95) and the reversal loop (R176) do to them,
and the packing as a change of base. -/

namespace Sys2Proof.Machine

/-! ### The bytes of a word -/

/-- Byte `k` of a word, byte 0 least significant. -/
def byteAt (v : Word) (k : Nat) : Byte := (v >>> (8 * k)).setWidth 8

theorem getLsbD_byteAt (v : Word) (k j : Nat) :
    (byteAt v k).getLsbD j = (decide (j < 8) && v.getLsbD (8 * k + j)) := by
  rw [byteAt, BitVec.getLsbD_setWidth, BitVec.getLsbD_ushiftRight]

theorem byteAt_or (u v : Word) (k : Nat) : byteAt (u ||| v) k = byteAt u k ||| byteAt v k := by
  simp only [byteAt, BitVec.ushiftRight_or_distrib, BitVec.setWidth_or]

theorem byteAt_zero (k : Nat) : byteAt 0 k = 0 := by simp [byteAt]

/-- Bit `i` of a word is bit `i % 8` of its byte `i / 8`. -/
theorem getLsbD_eq_byteAt (v : Word) (i : Nat) : v.getLsbD i = (byteAt v (i / 8)).getLsbD (i % 8) := by
  rw [getLsbD_byteAt, decide_eq_true (Nat.mod_lt i (by decide)), Bool.true_and, Nat.div_add_mod]

theorem word_eq_of_bytes {u v : Word} (h : ∀ k < 8, byteAt u k = byteAt v k) : u = v := by
  refine BitVec.eq_of_getLsbD_eq fun i hi => ?_
  rw [getLsbD_eq_byteAt u, getLsbD_eq_byteAt v, h (i / 8) (by omega)]

/-- A word is below `2^(8*len)` exactly when its bytes at `len` and above are zero. -/
theorem toNat_lt_iff_bytes (v : Word) (len : Nat) :
    v.toNat < 2 ^ (8 * len) ↔ ∀ k < 8, len ≤ k → byteAt v k = 0 := by
  constructor
  · intro hv k _ hlen
    refine BitVec.eq_of_getLsbD_eq fun j _ => ?_
    have hbit : v.toNat < 2 ^ (8 * k + j) := lt_of_lt_of_le hv (Nat.pow_le_pow_right (by decide) (by omega))
    rw [getLsbD_byteAt, ← BitVec.testBit_toNat v, Nat.testBit_lt_two_pow hbit, Bool.and_false]
    exact BitVec.getLsbD_zero.symm
  · intro h
    refine Nat.lt_pow_two_of_testBit _ fun i hi => ?_
    rw [BitVec.testBit_toNat]
    rcases Nat.lt_or_ge i 64 with h64 | h64
    · rw [getLsbD_eq_byteAt, h (i / 8) (by omega) (by omega)]
      exact BitVec.getLsbD_zero
    · exact BitVec.getLsbD_of_ge v i h64

/-! ### The packing of bytes (R95) -/

theorem byteAt_setWidth (b : Byte) (k : Nat) : byteAt (b.setWidth 64) k = if k = 0 then b else 0 := by
  refine BitVec.eq_of_getLsbD_eq fun j hj => ?_
  rw [getLsbD_byteAt, BitVec.getLsbD_setWidth]
  by_cases hk : k = 0
  · have hj64 : j < 64 := by omega
    simp [hk, hj, hj64]
  · rw [BitVec.getLsbD_of_ge b _ (by omega), if_neg hk]
    simp

theorem byteAt_shiftLeft_zero (v : Word) : byteAt (v <<< 8) 0 = 0 := by
  refine BitVec.eq_of_getLsbD_eq fun j hj => ?_
  simp [getLsbD_byteAt, hj, -BitVec.getLsbD_eq_getElem]

theorem byteAt_shiftLeft_succ (v : Word) {k : Nat} (hk : k + 1 < 8) : byteAt (v <<< 8) (k + 1) = byteAt v k := by
  refine BitVec.eq_of_getLsbD_eq fun j hj => ?_
  have hin : 8 * (k + 1) + j < 64 := by omega
  have hhigh : ¬ 8 * (k + 1) + j < 8 := by omega
  have hback : 8 * (k + 1) + j - 8 = 8 * k + j := by omega
  simp only [getLsbD_byteAt, BitVec.getLsbD_shiftLeft, hin, hhigh, hback, decide_true, decide_false, Bool.not_false,
    Bool.true_and]

/-- Byte `k` of a packed list is the list's byte `k`, and zero past its end. -/
theorem byteAt_packBytes (bs : List Byte) : ∀ k < 8, byteAt (packBytes bs) k = bs.getD k 0 := by
  induction bs with
  | nil => exact fun k _ => byteAt_zero k
  | cons b rest ih =>
    intro k hk
    rw [packBytes, byteAt_or, byteAt_setWidth]
    cases k with
    | zero => rw [byteAt_shiftLeft_zero, if_pos rfl, List.getD_cons_zero]; exact BitVec.or_zero
    | succ k =>
      rw [byteAt_shiftLeft_succ _ hk, ih k (by omega), if_neg (by omega), List.getD_cons_succ]
      exact BitVec.zero_or

theorem packBytes_lt (bs : List Byte) : (packBytes bs).toNat < 2 ^ (8 * bs.length) :=
  (toNat_lt_iff_bytes _ _).mpr fun k hk hlen => by
    rw [byteAt_packBytes bs k hk, List.getD_eq_default _ _ hlen]

theorem packBytes_cons_toNat (b : Byte) (rest : List Byte) :
    (packBytes (b :: rest)).toNat = ((packBytes rest).toNat * 256 + b.toNat) % 2 ^ 64 := by
  have hdisjoint : b.setWidth 64 &&& packBytes rest <<< 8 = 0 := by
    refine BitVec.eq_of_getLsbD_eq fun i _ => ?_
    rw [BitVec.getLsbD_and, BitVec.getLsbD_setWidth, BitVec.getLsbD_shiftLeft]
    rcases Nat.lt_or_ge i 8 with hi | hi
    · simp [hi]
    · simp [BitVec.getLsbD_of_ge b i hi]
  rw [packBytes, ← BitVec.add_eq_or_of_and_eq_zero _ _ hdisjoint, BitVec.toNat_add, BitVec.toNat_shiftLeft,
    Nat.shiftLeft_eq, BitVec.toNat_setWidth]
  omega

/-- The packed word is the list's value in base 256, its first byte least significant. -/
theorem packBytes_eq_foldr (bs : List Byte) :
    packBytes bs = BitVec.ofNat 64 (bs.foldr (fun b a => a * 256 + b.toNat) 0) := by
  induction bs with
  | nil => rfl
  | cons b rest ih =>
    refine BitVec.eq_of_toNat_eq ?_
    rw [packBytes_cons_toNat, ih, BitVec.toNat_ofNat, BitVec.toNat_ofNat, List.foldr_cons]
    omega

/-! ### The byte list of a word -/

/-- The low `len` bytes of a word, least significant first. -/
def bytesOf (len : Nat) (v : Word) : List Byte := (List.range len).map (byteAt v)

@[simp] theorem bytesOf_length (len : Nat) (v : Word) : (bytesOf len v).length = len := by simp [bytesOf]

theorem bytesOf_getD (len : Nat) (v : Word) (k : Nat) :
    (bytesOf len v).getD k 0 = if k < len then byteAt v k else 0 := by
  split
  · next hk => simp [bytesOf, hk]
  · next hk => exact List.getD_eq_default _ _ (by simpa using hk)

theorem bytesOf_reverse_getD (len : Nat) (v : Word) (k : Nat) :
    (bytesOf len v).reverse.getD k 0 = if k < len then byteAt v (len - 1 - k) else 0 := by
  split
  · next hk => simp [bytesOf, hk]
  · next hk => exact List.getD_eq_default _ _ (by simpa using hk)

/-- Most significant byte first is the reverse order. -/
theorem bytesOf_reverse (len : Nat) (v : Word) :
    (bytesOf len v).reverse = (List.range len).map fun k => byteAt v (len - 1 - k) := by
  refine List.ext_getElem (by simp) fun k _ _ => ?_
  simp [bytesOf]

/-- Packing the bytes of a word that has no others gives the word. -/
theorem packBytes_bytesOf {len : Nat} {v : Word} (hv : v.toNat < 2 ^ (8 * len)) : packBytes (bytesOf len v) = v :=
  word_eq_of_bytes fun k hk => by
    rw [byteAt_packBytes _ k hk, bytesOf_getD]
    split
    · rfl
    · next hlen => exact ((toNat_lt_iff_bytes v len).mp hv k hk (Nat.le_of_not_lt hlen)).symm

/-- The bytes of a packed list are the list, as long as it fits the word. -/
theorem bytesOf_packBytes {bs : List Byte} {len : Nat} (hlen : bs.length = len) (h8 : len ≤ 8) :
    bytesOf len (packBytes bs) = bs := by
  refine List.ext_getElem (by simp [hlen]) fun k _ hk => ?_
  have hbyte := byteAt_packBytes bs k (by omega)
  simpa [bytesOf, hk] using hbyte

/-! ### The reversal loop (R176) -/

/-- A byte moved to byte position `j` within the width. -/
theorem byteAt_shiftLeft_lowByte {w j : Nat} (hw : w ≤ 64) (hj : 8 * (j + 1) ≤ w) (v : Word) (k : Nat) :
    byteAt (shiftLeft w (v &&& 0xFF) (8 * j)) k = if k = j then v.setWidth 8 else 0 := by
  refine BitVec.eq_of_getLsbD_eq fun i hi => ?_
  have hmask : (0xFF : Word) = BitVec.ofNat 64 (2 ^ 8 - 1) := rfl
  rw [getLsbD_byteAt, getLsbD_shiftLeft, BitVec.getLsbD_shiftLeft, BitVec.getLsbD_and, hmask, getLsbD_ofNat_allOnes]
  obtain hlt | rfl | hgt := Nat.lt_trichotomy k j
  · have hbelow : 8 * k + i < 8 * j := by omega
    simp [hbelow, Nat.ne_of_lt hlt]
  · have hin : 8 * k + i < w := by omega
    have hin64 : 8 * k + i < 64 := by omega
    have hi64 : i < 64 := by omega
    simp [hi, hi64, hin, hin64, -BitVec.getLsbD_eq_getElem]
  · have habove : ¬ 8 * k + i - 8 * j < 8 := by omega
    simp [habove, Nat.ne_of_gt hgt]

/-- One pass of the loop: byte `k` of `v` goes to byte `len-1-k`. -/
def reversePass (w len : Nat) (v r : Word) (k : Nat) : Word :=
  r ||| shiftLeft w ((v >>> (8 * k)) &&& 0xFF) (8 * (len - 1 - k))

theorem reverseBytes_eq_foldl (w len : Nat) (v : Word) :
    reverseBytes w len v = (List.range len).foldl (reversePass w len v) 0 := rfl

/-- After `m` passes the top `m` of the `len` bytes are in place. -/
theorem byteAt_reversePasses {w len : Nat} (hw : w ≤ 64) (hlen : 8 * len ≤ w) (v : Word) (k m : Nat) (hm : m ≤ len) :
    byteAt ((List.range m).foldl (reversePass w len v) 0) k =
      if len - m ≤ k ∧ k < len then byteAt v (len - 1 - k) else 0 := by
  induction m with
  | zero =>
    rw [if_neg (by omega)]
    exact byteAt_zero k
  | succ m ih =>
    rw [List.range_succ, List.foldl_append, List.foldl_cons, List.foldl_nil, reversePass, byteAt_or, ih (by omega),
      byteAt_shiftLeft_lowByte hw (by omega)]
    by_cases hk : k = len - 1 - m
    · have hnew : len - 1 - k = m := by omega
      rw [if_neg (by omega), if_pos hk, if_pos (by omega), hnew]
      exact BitVec.zero_or
    · have hsame : (len - m ≤ k ∧ k < len) ↔ (len - (m + 1) ≤ k ∧ k < len) := by omega
      rw [if_neg hk, if_congr hsame rfl rfl]
      exact BitVec.or_zero

/-- The loop packs the bytes in reverse order. -/
theorem reverseBytes_eq_packBytes {w len : Nat} (hw : w ≤ 64) (hlen : 8 * len ≤ w) (v : Word) :
    reverseBytes w len v = packBytes (bytesOf len v).reverse := by
  refine word_eq_of_bytes fun k hk => ?_
  rw [reverseBytes_eq_foldl, byteAt_reversePasses hw hlen v k len le_rfl, byteAt_packBytes _ k hk,
    bytesOf_reverse_getD, Nat.sub_self]
  simp

end Sys2Proof.Machine
end

section
/-! PROOFS. The output formatter (spec/45_output_formatter.md): the raw value bit by bit, and the CRC value and the
emitted bytes as packings and listings of the raw value's bytes. -/

namespace Sys2Proof.Machine

/-! ### The number of bytes (R176) -/

theorem byteLength_eq (bits : Byte) : byteLength bits = (bits.toNat + 7) / 8 := Nat.shiftRight_eq_div_pow _ 3

/-- The bytes of the CRC fit the active width. -/
theorem byteLength_fits {s : State} (hs : s.Configured) : 8 * byteLength s.bits ≤ s.width := by
  have hle := hs.bitsLe
  have hranges := widthSelect_ranges hle
  rw [byteLength_eq, hs.width]
  omega

theorem byteLength_le {s : State} (hs : s.Configured) : byteLength s.bits ≤ 8 := by
  have hfits := byteLength_fits hs
  have hw := width_le s
  omega

theorem bits_le_byteLength (bits : Byte) : bits.toNat ≤ 8 * byteLength bits := by
  rw [byteLength_eq]
  omega

/-! ### The raw value (R175) -/

theorem getLsbD_turnedSum {s : State} (hs : s.Configured) {k : Nat} (hk : k < s.bits.toNat) :
    s.turnedSum.getLsbD k =
      if s.byTable = false ∧ s.reflect = true then s.sum.getLsbD (s.bits.toNat - 1 - k) else s.sum.getLsbD k := by
  rw [State.turnedSum, turnedAtRead, hs.highBit, ofNat_two_pow, apply_ite (BitVec.getLsbD · k),
    getLsbD_reflectBits hs.bitsPos hs.bitsLe, decide_eq_true hk, Bool.true_and]
  exact if_congr (by simp) rfl rfl

/-- The raw value bit by bit: `bits` bits of the turned register XOR `final_xor`. -/
theorem getLsbD_rawValue {s : State} (hs : s.Configured) (k : Nat) :
    s.rawValue.getLsbD k = (decide (k < s.bits.toNat) &&
      Bool.xor (if s.byTable = false ∧ s.reflect = true then s.sum.getLsbD (s.bits.toNat - 1 - k) else s.sum.getLsbD k)
        (s.finalXor.getLsbD k)) := by
  have hle := hs.bitsLe
  rw [State.rawValue, hs.mask, BitVec.getLsbD_and, BitVec.getLsbD_xor, getLsbD_ofNat_allOnes]
  by_cases hk : k < s.bits.toNat
  · have hk64 : k < 64 := by omega
    rw [getLsbD_turnedSum hs hk, decide_eq_true hk, decide_eq_true hk64, Bool.true_and, Bool.and_true, Bool.true_and]
  · rw [decide_eq_false hk, Bool.and_false, Bool.and_false, Bool.false_and]

theorem rawValue_lt {s : State} (hs : s.Configured) : s.rawValue.toNat < 2 ^ s.bits.toNat :=
  Nat.lt_pow_two_of_testBit _ fun k hk => by
    rw [BitVec.testBit_toNat, getLsbD_rawValue hs, decide_eq_false (Nat.not_lt.mpr hk), Bool.false_and]

theorem rawValue_lt_bytes {s : State} (hs : s.Configured) : s.rawValue.toNat < 2 ^ (8 * byteLength s.bits) :=
  lt_of_lt_of_le (rawValue_lt hs) (Nat.pow_le_pow_right (by decide) (bits_le_byteLength s.bits))

/-! ### The CRC value and the emitted bytes (R176, R180) -/

/-- The bytes of the raw value, least significant first. -/
def State.rawBytes (s : State) : List Byte := bytesOf (byteLength s.bits) s.rawValue

theorem rawBytes_length (s : State) : s.rawBytes.length = byteLength s.bits := bytesOf_length _ _

/-- `out_bytes()` lists the bytes of the CRC value, most significant first. -/
theorem outBytes_eq (s : State) : s.outBytes = (bytesOf (byteLength s.bits) s.crcValue).reverse :=
  (bytesOf_reverse _ _).symm

theorem outBytes_length (s : State) : s.outBytes.length = byteLength s.bits := by
  rw [outBytes_eq, List.length_reverse, bytesOf_length]

theorem crcValue_plain {s : State} (hr : s.reorder = false) : s.crcValue = s.rawValue := by
  simp [State.crcValue, hr]

/-- With `reorder` the CRC value packs the bytes of the raw value in reverse order. -/
theorem crcValue_reordered {s : State} (hs : s.Configured) (hr : s.reorder = true) :
    s.crcValue = packBytes s.rawBytes.reverse := by
  rw [State.crcValue, if_pos hr]
  exact reverseBytes_eq_packBytes (width_le s) (byteLength_fits hs) s.rawValue

theorem crcValue_lt {s : State} (hs : s.Configured) : s.crcValue.toNat < 2 ^ (8 * byteLength s.bits) := by
  cases hr : s.reorder with
  | false =>
    rw [crcValue_plain hr]
    exact rawValue_lt_bytes hs
  | true =>
    have hpack := packBytes_lt s.rawBytes.reverse
    rwa [List.length_reverse, rawBytes_length, ← crcValue_reordered hs hr] at hpack

/-- The emitted bytes in reverse order pack to the CRC value. -/
theorem packBytes_outBytes_reverse {s : State} (hs : s.Configured) : packBytes s.outBytes.reverse = s.crcValue := by
  rw [outBytes_eq, List.reverse_reverse, packBytes_bytesOf (crcValue_lt hs)]

/-- The emitted bytes are the base-256 digits of the CRC value, most significant first. -/
theorem crcValue_eq_foldl {s : State} (hs : s.Configured) :
    s.crcValue = BitVec.ofNat 64 (s.outBytes.foldl (fun a b => a * 256 + b.toNat) 0) := by
  rw [List.foldl_eq_foldr_reverse, ← packBytes_eq_foldr, packBytes_outBytes_reverse hs]

theorem outBytes_plain {s : State} (hr : s.reorder = false) : s.outBytes = s.rawBytes.reverse := by
  rw [outBytes_eq, crcValue_plain hr, State.rawBytes]

/-- Reordering reverses the bytes that are emitted. -/
theorem outBytes_reordered {s : State} (hs : s.Configured) (hr : s.reorder = true) : s.outBytes = s.rawBytes := by
  have hlen : s.rawBytes.reverse.length = byteLength s.bits := by rw [List.length_reverse, rawBytes_length]
  rw [outBytes_eq, crcValue_reordered hs hr, bytesOf_packBytes hlen (byteLength_le hs), List.reverse_reverse]

/-- Byte `k` of the packed response of GETBYTES.BE is byte `len-1-k` of the CRC value. -/
theorem byteAt_packBytes_outBytes (s : State) {k : Nat} (hk : k < 8) :
    byteAt (packBytes s.outBytes) k =
      if k < byteLength s.bits then byteAt s.crcValue (byteLength s.bits - 1 - k) else 0 := by
  rw [byteAt_packBytes _ k hk, outBytes_eq, bytesOf_reverse_getD]

/-- Byte `k` of the reordered CRC value is byte `len-1-k` of the raw value. -/
theorem byteAt_crcValue_reordered {s : State} (hs : s.Configured) (hr : s.reorder = true) {k : Nat} (hk : k < 8) :
    byteAt s.crcValue k =
      if k < byteLength s.bits then byteAt s.rawValue (byteLength s.bits - 1 - k) else 0 := by
  rw [crcValue_reordered hs hr, byteAt_packBytes _ k hk, State.rawBytes, bytesOf_reverse_getD]

/-! ### The three reads in READY (R177, R182, R183) -/

theorem exec_getcrc_ready {s : State} (hs : s.state = .ready) : exec .getcrc s = .next (s.respond s.crcValue) :=
  exec_ready .getcrc hs

theorem exec_getbytesBe_ready {s : State} (hs : s.state = .ready) :
    exec .getbytesBe s = .next (s.respondBytes s.outBytes) :=
  exec_ready .getbytesBe hs

theorem exec_getbytesLe_ready {s : State} (hs : s.state = .ready) :
    exec .getbytesLe s = .next (s.respondBytes s.outBytes.reverse) :=
  exec_ready .getbytesLe hs

/-- What a read in READY does: it drives a response, the same one when the read is repeated. -/
theorem exec_read_ready {i : Instr} (hi : i ∈ [Instr.getcrc, .getbytesBe, .getbytesLe]) {s : State}
    (hs : s.state = .ready) :
    ∃ r, exec i s = .next (s.respondWith r) ∧
      ∀ r', exec i (s.respondWith r') = .next ((s.respondWith r').respondWith r) := by
  simp only [List.mem_cons, List.not_mem_nil, or_false] at hi
  obtain rfl | rfl | rfl := hi
  · exact ⟨_, exec_getcrc_ready hs, fun _ => exec_getcrc_ready hs⟩
  · exact ⟨_, exec_getbytesBe_ready hs, fun _ => exec_getbytesBe_ready hs⟩
  · exact ⟨_, exec_getbytesLe_ready hs, fun _ => exec_getbytesLe_ready hs⟩

/-! ### What the state may change without harm to the configuration -/

/-- The configuration in READY says nothing of `reorder`. -/
theorem configured_with_reorder {s : State} (hs : s.Configured) (r : Bool) : { s with reorder := r }.Configured :=
  ⟨hs.bitsPos, hs.bitsLe, hs.width, hs.byTable, hs.highBit, hs.mask, hs.tbl⟩

/-- Writing `sum` keeps the invariant of the machine. -/
theorem writeSum_inv {s : State} (hinv : s.Inv) (v : Word) : (s.writeSum v).Inv where
  cells := { hinv.cells with sum := narrow_lt _ _ }
  ready hs := { hinv.ready hs with }

end Sys2Proof.Machine
end

section
/-! ### The obligations on the output formatter -/

open Sys2Proof Sys2Proof.Machine

/-- Settles O41: the raw value by its closed form, and the reordered value as the packing of the reversed bytes. -/
theorem getcrcRespondsTheCrcValue : Obligations.GetcrcRespondsTheCrcValue := by
  intro s hinv hs
  have hc := hinv.ready hs
  refine ⟨s.rawValue, s.crcValue, getLsbD_rawValue hc, crcValue_plain, fun hr k hk => ?_, exec_getcrc_ready hs⟩
  rw [← byteLength_eq]
  exact byteAt_crcValue_reordered hc hr hk

/-- Settles O42: the packed bytes one by one. -/
theorem getbytesBeRespondsTheBytes : Obligations.GetbytesBeRespondsTheBytes := by
  intro s _ hs
  refine ⟨_, s.crcValue, packBytes s.outBytes, exec_getcrc_ready hs, rfl, fun k hk => ?_, ?_⟩
  · rw [← byteLength_eq]
    exact byteAt_packBytes_outBytes s hk
  · rw [exec_getbytesBe_ready hs, ← byteLength_eq, ← outBytes_length]
    rfl

/-- Settles O43: the emitted bytes, least significant first, pack to the CRC value. -/
theorem getbytesLeRespondsTheBytes : Obligations.GetbytesLeRespondsTheBytes := by
  intro s hinv hs
  refine ⟨_, s.crcValue, exec_getcrc_ready hs, rfl, ?_⟩
  rw [exec_getbytesLe_ready hs, respondBytes_eq, packBytes_outBytes_reverse (hinv.ready hs), List.length_reverse,
    outBytes_length, byteLength_eq]
  rfl

/-- Settles O44: the list is `out_bytes()`. -/
theorem endianRoundTrip : Obligations.EndianRoundTrip := by
  intro s hinv hs
  refine ⟨s.outBytes, (outBytes_length s).trans (byteLength_eq _), exec_getbytesBe_ready hs,
    exec_getbytesLe_ready hs, ?_⟩
  rw [← crcValue_eq_foldl (hinv.ready hs)]
  exact exec_getcrc_ready hs

/-- Settles O45: the list is the raw value's bytes, which `reorder` leaves alone. -/
theorem reorderCancelsEndianness : Obligations.ReorderCancelsEndianness := by
  intro s hinv hs plain swapped
  have hswapped : swapped.outBytes = s.rawBytes :=
    outBytes_reordered (configured_with_reorder (hinv.ready hs) true) rfl
  have hplain : plain.outBytes = s.rawBytes.reverse := outBytes_plain rfl
  have hplainReversed : plain.outBytes.reverse = s.rawBytes := by rw [hplain, List.reverse_reverse]
  refine ⟨s.rawBytes, (rawBytes_length s).trans (byteLength_eq _), ?_, ?_, ?_, ?_⟩
  · exact hswapped ▸ exec_getbytesBe_ready hs
  · exact hplainReversed ▸ exec_getbytesLe_ready hs
  · exact hswapped ▸ exec_getbytesLe_ready hs
  · exact hplain ▸ exec_getbytesBe_ready hs

/-- Settles O46: the value is below `2^(8L)` by its packing, and below `2^bits` if it is the raw value or fills its
bytes; B3's register after the nine bytes of spec/95_test_vectors.md section 2.6 passes `2^bits`. -/
theorem getcrcResponseBounds : Obligations.GetcrcResponseBounds := by
  constructor
  · intro s t hinv hs ht
    have hc := hinv.ready hs
    have hlt := crcValue_lt hc
    cases (exec_getcrc_ready hs).symm.trans ht
    rw [← byteLength_eq]
    refine ⟨_, rfl, hlt, ?_⟩
    rintro (hr | haligned)
    · exact (crcValue_plain hr).symm ▸ rawValue_lt hc
    · have hbits : 8 * byteLength s.bits = s.bits.toNat := by
        rw [byteLength_eq]
        omega
      exact hbits ▸ hlt
  · have hraw : (b3.writeSum 0x4F5B).rawValue = 0xF5B := by decide +kernel
    obtain ⟨-, -, hrsp⟩ := test_getcrc
    exact ⟨b3.writeSum 0x4F5B, _, _, writeSum_inv b3_inv _, rfl, rfl, hraw, exec_ready .getcrc rfl, hrsp, rfl⟩

/-- Settles O47: a read drives a response, which neither a read nor a DIGEST reads. -/
theorem readsDoNotDisturbTheComputation : Obligations.ReadsDoNotDisturbTheComputation := by
  intro s t i byte hi hs ht
  obtain ⟨r, hread, hagain⟩ := exec_read_ready hi hs
  cases hread.symm.trans ht
  refine ⟨⟨_, hagain r, rfl⟩, _, _, exec_ready (.digest byte) hs, exec_ready (.digest byte) hs, ?_, ?_⟩
  · exact ⟨rfl, rfl, rfl, rfl, rfl, rfl, rfl, rfl, rfl, rfl, rfl⟩
  · exact ⟨rfl, rfl, rfl, rfl, rfl, rfl, rfl, rfl, rfl, rfl, fun _ => rfl⟩

end

section
/-! PROOFS. Faults (spec/60_exceptions.md): what leads into FAULT is a fault entry (R193), and a run in FAULT without a
power-on reset only takes events off the host's list (R196). -/

namespace Sys2Proof.Machine

/-! ### Fault entry (R193) -/

/-- The fault entry of an accepted command, as an update of the state before the step. -/
theorem raiseFault_accepted {s : State} {r : Request} {rest : List HostEvent} (he : s.events = .command r :: rest)
    (code : FaultCode) : raiseFault code (s.dropEvent.sample r) = { s with
      events := rest, port := r, state := .fault, faultCode := code, faultInfo := r.cmd, rsp := none } := by
  simp [raiseFault, State.sample, State.dropEvent, he]

/-- The one effect that leads into FAULT is CREATE's, out of range. -/
theorem readyEffect_into_fault {i : Instr} {s : State} (hf : s.state ≠ .fault)
    (ht : (readyEffect i s).state = .fault) : readyEffect i s = raiseFault .configFault s := by
  cases i with
  | create reorder reflect bits =>
    refine createEffect_out_of_range reorder reflect s (Bool.eq_false_iff.mpr fun hb => ?_)
    rw [readyEffect, createEffect_in_range reorder reflect s hb, configure_state] at ht
    cases ht
  | _ => exact absurd ht hf

theorem exec_into_fault {i : Instr} {s t : State} (hf : s.state ≠ .fault) (h : exec i s = .next t)
    (ht : t.state = .fault) : ∃ code, code ≠ .noFault ∧ t = raiseFault code s := by
  obtain ⟨-, rfl⟩ | ⟨-, -, rfl⟩ | ⟨-, -, rfl⟩ | ⟨hs, -⟩ := exec_cases h
  · exact ⟨.configFault, nofun, readyEffect_into_fault hf ht⟩
  · exact ⟨.configFault, nofun, readyEffect_into_fault hf ht⟩
  · exact ⟨.notConfigured, nofun, rfl⟩
  · exact absurd hs hf

/-- A step into FAULT is the fault entry of an accepted command. -/
theorem step_into_fault {s t : State} (hf : s.state ≠ .fault) (h : step s = .next t) (ht : t.state = .fault) :
    ∃ r rest code, s.events = .command r :: rest ∧ code ≠ .noFault ∧ t = raiseFault code (s.dropEvent.sample r) := by
  obtain ⟨-, rfl⟩ | ⟨_, -, rfl⟩ | ⟨_, _, -, hs, -⟩ | ⟨r, rest, _, he, -, -, rfl⟩ | ⟨r, rest, i, he, -, -, hexec⟩ :=
    step_cases h
  · exact absurd ht hf
  · cases ht
  · exact absurd hs hf
  · exact ⟨r, rest, .illegalCommand, he, nofun, rfl⟩
  · obtain ⟨code, hcode, heq⟩ := exec_into_fault (s := s.dropEvent.sample r) hf hexec ht
    exact ⟨r, rest, code, he, hcode, heq⟩

/-! ### Runs in FAULT (R196) -/

/-- Unless the oldest event is a power-on reset, a step in FAULT only takes it off the list. -/
theorem step_in_fault {s : State} (hf : s.state = .fault) (hpor : noPor s.events = true) :
    step s = .next s.dropEvent := by
  match he : s.events with
  | [] => rw [step_idle he, State.dropEvent, he, List.tail_nil, ← he]
  | .por :: _ => simp [noPor, he] at hpor
  | .command _ :: _ => exact step_turned_away he hf

theorem noPor_tail {es : List HostEvent} (h : noPor es = true) : noPor es.tail = true :=
  List.all_eq_true.mpr fun e he => List.all_eq_true.mp h e (List.mem_of_mem_tail he)

theorem runSteps_in_fault (n : Nat) {s : State} (hf : s.state = .fault) (hpor : noPor s.events = true) :
    runSteps n s = .next { s with events := s.events.drop n } := by
  induction n generalizing s with
  | zero => rfl
  | succ n ih =>
    rw [runSteps_step n (step_in_fault hf hpor), ih (s := s.dropEvent) hf (noPor_tail hpor), State.dropEvent, List.drop_tail]

theorem cmdReady_in_fault {s : State} (hf : s.state = .fault) : s.cmdReady = false := by
  simp [State.cmdReady, hf]

end Sys2Proof.Machine
end

section
/-! ### The obligations -/

open Sys2Proof Sys2Proof.Machine

/-- Settles O16: the step is a fault entry, and the run that follows stays in FAULT. -/
theorem faultEntryWritesOnlyTheStatus : Obligations.FaultEntryWritesOnlyTheStatus := by
  intro s t hf h ht
  obtain ⟨r, rest, code, he, hcode, rfl⟩ := step_into_fault hf h ht
  exact ⟨hcode, cmdReady_in_fault ht, fun n hpor => ⟨_, runSteps_in_fault n ht hpor, cmdReady_in_fault ht⟩,
    r, rest, he, raiseFault_accepted he code⟩

/-- Settles O14: the state check of R192 raises the fault. -/
theorem commandsBeforeCreateRaiseNotConfigured : Obligations.CommandsBeforeCreateRaiseNotConfigured :=
  fun _ _ hi hs => exec_unconfigured hi hs

end

section
/-! PROOFS. Encoding (spec/30_encoding.md): the encoder and the decoder are inverse to each other, and the words of the
formats and of the pseudo-commands. -/

namespace Sys2Proof

open Laws.EncodesLegal

/-! ### Decoding an encoded command -/

theorem decode_encode (i : Instr) : decode (encode i) = .command i := by
  cases i with
  | create reorder reflect bits =>
    rw [encode, decode_op_create (opField_wordOf ..), reservedField_wordOf, flag1_wordOf, flag0_wordOf,
      dataField_wordOf]
    rfl
  | digest byte =>
    rw [encode, decode_op_digest (opField_wordOf ..), reservedField_wordOf, flag1_wordOf, flag0_wordOf,
      dataField_wordOf]
    rfl
  | reset => rfl
  | getcrc => rfl
  | getbytesBe => rfl
  | getbytesLe => rfl

/-! ### Encoding a decoded word -/

theorem ifZero_eq_command_iff {zero : Bool} {i j : Instr} : ifZero zero i = .command j ↔ zero = true ∧ i = j := by
  cases zero <;> simp [ifZero]

/-- A word with a zero reserved field is assembled from its other four. -/
theorem wordOf_fields {w : Command} {op : BitVec 4} {f1 f0 : Bool} {d : Byte} (hop : opField w = op)
    (hrsv : reservedField w = 0) (hf1 : w.getLsbD 9 = f1) (hf0 : w.getLsbD 8 = f0) (hd : dataField w = d) :
    wordOf op f1 f0 d = w := by
  rw [word_eq_iff_fields, opField_wordOf, reservedField_wordOf, flag1_wordOf, flag0_wordOf, dataField_wordOf]
  exact ⟨hop.symm, hrsv.symm, hf1.symm, hf0.symm, hd.symm⟩

theorem encode_of_decode {w : Command} {i : Instr} (h : decode w = .command i) : encode i = w := by
  obtain hop | hop | hop | hop | hop | hop := opField_cases w
  · rw [decode_op_create hop, ifZero_eq_command_iff, beq_iff_eq] at h
    obtain ⟨hrsv, rfl⟩ := h
    exact wordOf_fields hop hrsv rfl rfl rfl
  · simp only [decode_op_digest hop, ifZero_eq_command_iff, Bool.and_eq_true, beq_iff_eq, Bool.not_eq_true'] at h
    obtain ⟨⟨⟨hrsv, hf1⟩, hf0⟩, rfl⟩ := h
    exact wordOf_fields hop hrsv hf1 hf0 rfl
  · simp only [decode_op_reset hop, ifZero_eq_command_iff, Bool.and_eq_true, beq_iff_eq, Bool.not_eq_true'] at h
    obtain ⟨⟨⟨⟨hrsv, hf1⟩, hf0⟩, hd⟩, rfl⟩ := h
    exact wordOf_fields hop hrsv hf1 hf0 hd
  · simp only [decode_op_getcrc hop, ifZero_eq_command_iff, Bool.and_eq_true, beq_iff_eq, Bool.not_eq_true'] at h
    obtain ⟨⟨⟨⟨hrsv, hf1⟩, hf0⟩, hd⟩, rfl⟩ := h
    exact wordOf_fields hop hrsv hf1 hf0 hd
  · simp only [decode_op_getbytes hop, ifZero_eq_command_iff, Bool.and_eq_true, beq_iff_eq, Bool.not_eq_true'] at h
    obtain ⟨⟨⟨hrsv, hf1⟩, hd⟩, rfl⟩ := h
    cases hf0 : w.getLsbD 8 with
    | false => exact wordOf_fields hop hrsv hf1 hf0 hd
    | true => exact wordOf_fields hop hrsv hf1 hf0 hd
  · simp [decode_no_op hop] at h

/-! ### The formats (R84 to R87) -/

/-- A word is the disjunction of its fields, each at its place. -/
theorem wordOf_eq_or (op : BitVec 4) (f1 f0 : Bool) (d : Byte) :
    wordOf op f1 f0 d = (op.setWidth 16 <<< 12) ||| ((BitVec.ofBool f1).setWidth 16 <<< 9)
      ||| ((BitVec.ofBool f0).setWidth 16 <<< 8) ||| d.setWidth 16 := by
  rw [← BitVec.setWidth_eq (wordOf op f1 f0 d), wordOf]
  simp only [BitVec.setWidth_append_eq_shiftLeft_setWidth_or, BitVec.shiftLeft_or_distrib, ← BitVec.shiftLeft_add]
  simp

end Sys2Proof
end

section
/-! ### The obligations -/

open Sys2Proof Sys2Proof.Machine

/-- Settles O1: format by format. -/
theorem decodeOfEncodeIsTheCommand : Obligations.DecodeOfEncodeIsTheCommand := fun i _ => decode_encode i

/-- Settles O2: an accepted word has no bit outside its command's fields. -/
theorem encodeOfDecodeIsTheWord : Obligations.EncodeOfDecodeIsTheWord := fun _ _ => encode_of_decode

/-- Settles O4: the decoder run on the words. -/
theorem specWordsDecodeAsTheSpecSays : Obligations.SpecWordsDecodeAsTheSpecSays := by
  refine ⟨by decide, by decide, by decide, by decide, by decide, by decide, by decide, by decide, fun w hw => ?_⟩
  fin_cases hw <;> exact ⟨_, rfl⟩

/-- Settles O5: the disjunction of the fields, with the operation written out. -/
theorem encodingsFollowTheFormats : Obligations.EncodingsFollowTheFormats := by
  refine ⟨fun reorder reflect bits => ?_, fun byte => ?_, rfl, rfl, rfl, rfl⟩
  · exact wordOf_eq_or 1 reorder reflect bits
  · exact (wordOf_eq_or 2 false false byte).trans (by simp)

/-- Settles O8: the words of the pseudo-commands are encodings. -/
theorem pseudoCommandsExpand : Obligations.PseudoCommandsExpand := by
  have hbytes (bs : List Byte) : (digestBytes bs).map decode = bs.map fun b => .command (.digest b) := by
    simp [digestBytes, Function.comp_def, decode_encode]
  refine ⟨hbytes, rfl, fun text => ?_, by decide, decode_encode _, decode_encode _⟩
  rw [digestString, hbytes, List.map_map]
  rfl

end

section
/-! PROOFS. The values of the engine cut down to their low `m` bits, `n ≤ m ≤ w`: every operation on the 64-bit cells is
the operation of Safety/WidthIndexed.lean on `BitVec m`. With `m = w` this is R27's same machine, with `m = n` it says
that the significant bits of a result come from the significant bits of the operands alone. -/

namespace Sys2Proof.Machine

/-! ### Truncation and shifts -/

theorem setWidth_narrow {m w : Nat} (hm : m ≤ w) (v : Word) : (narrow w v).setWidth m = v.setWidth m := by
  refine BitVec.eq_of_getLsbD_eq fun k hk => ?_
  have hkw : k < w := by omega
  simp only [BitVec.getLsbD_setWidth, getLsbD_narrow, hkw, decide_true, Bool.true_and]

theorem getLsbD_setWidth_of_lt {k m : Nat} (hk : k < m) (v : Word) : (v.setWidth m).getLsbD k = v.getLsbD k := by
  rw [BitVec.getLsbD_setWidth, decide_eq_true hk, Bool.true_and]

theorem lt_two_pow_of_le {n m : Nat} {v : Word} (hv : v.toNat < 2 ^ n) (h : n ≤ m) : v.toNat < 2 ^ m :=
  lt_of_lt_of_le hv (Nat.pow_le_pow_right (by decide) h)

theorem setWidth_shiftLeft {m w : Nat} (hm : m ≤ w) (hw : w ≤ 64) (v : Word) (k : Nat) :
    (shiftLeft w v k).setWidth m = v.setWidth m <<< k :=
  (setWidth_narrow hm _).trans (BitVec.setWidth_shiftLeft_of_le (hm.trans hw))

/-- A value that fits is its low bits, extended. -/
theorem setWidth_setWidth_of_lt {m : Nat} {v : Word} (hv : v.toNat < 2 ^ m) : (v.setWidth m).setWidth 64 = v :=
  narrow_of_lt m v hv

theorem setWidth_toNat_lt {m : Nat} (hm : m ≤ 64) (v : BitVec m) : (v.setWidth 64).toNat < 2 ^ m := by
  rw [BitVec.toNat_setWidth_of_le hm]
  exact v.isLt

theorem setWidth_inj_of_lt {m : Nat} {u v : Word} (hu : u.toNat < 2 ^ m) (hv : v.toNat < 2 ^ m)
    (h : u.setWidth m = v.setWidth m) : u = v := by
  rw [← setWidth_setWidth_of_lt hu, h, setWidth_setWidth_of_lt hv]

/-- The low bits as `AND` with the mask of R26. -/
theorem and_mask_eq_iff {n : Nat} (hn : n ≤ 64) (u v : Word) :
    u &&& BitVec.ofNat 64 (2 ^ n - 1) = v &&& BitVec.ofNat 64 (2 ^ n - 1) ↔ u.setWidth n = v.setWidth n := by
  simp only [BitVec.eq_of_getLsbD_eq_iff, BitVec.getLsbD_and, getLsbD_ofNat_allOnes, BitVec.getLsbD_setWidth]
  constructor
  · intro h k hk
    have hk64 : k < 64 := by omega
    simpa [hk, hk64] using h k hk64
  · intro h k hk64
    by_cases hk : k < n
    · simpa [hk, hk64] using h k hk
    · simp [hk]

/-- The low bits as the remainder by `2^n`. -/
theorem mod_two_pow_eq_iff (n : Nat) (u v : Word) :
    u.toNat % 2 ^ n = v.toNat % 2 ^ n ↔ u.setWidth n = v.setWidth n := by
  rw [BitVec.toNat_eq, BitVec.toNat_setWidth, BitVec.toNat_setWidth]

/-- If truncation takes `f` to `g`, it takes the iterations of `f` to those of `g`. -/
theorem setWidth_repeatTimes {m : Nat} {f : Word → Word} {g : BitVec m → BitVec m}
    (h : ∀ v, (f v).setWidth m = g (v.setWidth m)) (k : Nat) :
    ∀ v, (repeatTimes f k v).setWidth m = g^[k] (v.setWidth m) := by
  induction k with
  | zero => exact fun v => rfl
  | succ k ih => exact fun v => by rw [repeatTimes, ih, h, Function.iterate_succ_apply]

/-- Reading the highest bit through its one-hot mask (R25). -/
theorem and_highBitOf_eq_zero_iff {n w : Nat} (hpos : 1 ≤ n) (hn : n ≤ w) (hw : w ≤ 64) (v : Word) :
    v &&& highBitOf w n = 0 ↔ v.getLsbD (n - 1) = false := by
  rw [highBitOf_eq hpos hn hw, ← and_oneHot_ne_zero (by omega), bne_eq_false_iff_eq]

theorem and_one_eq_zero_iff (v : Word) : v &&& 1 = 0 ↔ v.getLsbD 0 = false := by
  rw [← and_oneHot_ne_zero (m := 0) (by decide), bne_eq_false_iff_eq]
  rfl

/-- Rule d takes the bits of the byte from the top. -/
theorem widthIndexed_bitSerial_eq_foldl {m : Nat} (n : Nat) (p v : BitVec m) (byte : Byte) :
    WidthIndexed.bitSerial n p v byte = (bitsFromTop byte).foldl (WidthIndexed.bitStep n p) v := by
  rw [bitsFromTop_eq_map_range, List.foldl_map, WidthIndexed.bitSerial]

section
variable {n m w : Nat} (hpos : 1 ≤ n) (hn : n ≤ m) (hm : m ≤ w) (hw : w ≤ 64)
include hpos hn hm hw

theorem setWidth_forwardRound (p v : Word) :
    (forwardRound w (highBitOf w n) (maskOf w (highBitOf w n)) p v).setWidth m =
      WidthIndexed.forwardRound n (p.setWidth m) (v.setWidth m) := by
  have htest := and_highBitOf_eq_zero_iff hpos (hn.trans hm) hw v
  rw [forwardRound, WidthIndexed.forwardRound, maskOf_highBitOf hpos (hn.trans hm) hw, BitVec.setWidth_and,
    BitVec.setWidth_ofNat_of_le (hm.trans hw), getLsbD_setWidth_of_lt (by omega), if_congr htest rfl rfl]
  cases v.getLsbD (n - 1) <;> simp [setWidth_shiftLeft hm hw]

/-- A forward table word (R121). -/
theorem setWidth_forwardWord (p : Word) (i : Byte) :
    (forwardWord w p n i.toNat).setWidth m = WidthIndexed.tableWord n false (p.setWidth m) i := by
  have hstart : (BitVec.ofNat 64 i.toNat).setWidth m = i.setWidth m := by
    rw [BitVec.ofNat_toNat, BitVec.setWidth_setWidth (by omega)]
  rw [forwardWord, setWidth_repeatTimes (setWidth_forwardRound hpos hn hm hw p), setWidth_shiftLeft hm hw, hstart]
  rfl

/-- One bit of rule d (R154). -/
theorem setWidth_bitStep (p v : Word) (input : Bool) :
    (bitStep w (BitVec.ofNat 64 (2 ^ (n - 1))) p v input).setWidth m =
      WidthIndexed.bitStep n (p.setWidth m) (v.setWidth m) input := by
  rw [bitStep_eq_ite, and_oneHot_ne_zero (by omega), WidthIndexed.bitStep, getLsbD_setWidth_of_lt (by omega)]
  cases Bool.xor (v.getLsbD (n - 1)) input <;> simp [setWidth_shiftLeft hm hw]

/-- Rule d on a register (R154). -/
theorem setWidth_bitSerial (p v : Word) (byte : Byte) :
    (bitSerial w (BitVec.ofNat 64 (2 ^ (n - 1))) p byte v).setWidth m =
      WidthIndexed.bitSerial n (p.setWidth m) (v.setWidth m) byte := by
  rw [bitSerial, widthIndexed_bitSerial_eq_foldl]
  exact (List.foldl_hom _ fun v input => (setWidth_bitStep hpos hn hm hw p v input).symm).symm

/-- A reflection (R110). -/
theorem setWidth_reflectBits (v : Word) :
    (reflectBits (BitVec.ofNat 64 (2 ^ (n - 1))) v).setWidth m = WidthIndexed.reverseLow n (v.setWidth m) := by
  refine BitVec.eq_of_getLsbD_eq fun k hk => ?_
  rw [ofNat_two_pow, WidthIndexed.reverseLow, BitVec.getLsbD_ushiftRight, BitVec.getLsbD_reverse, BitVec.getMsbD,
    BitVec.getLsbD_setWidth, BitVec.getLsbD_setWidth, getLsbD_reflectBits hpos (hn.trans (hm.trans hw))]
  by_cases hkn : k < n
  · have hin : m - n + k < m := by omega
    have hpos' : m - 1 - (m - n + k) = n - 1 - k := by omega
    have hlt : n - 1 - k < m := by omega
    simp only [hk, hkn, hin, hpos', hlt, decide_true, Bool.true_and]
  · have hout : ¬ m - n + k < m := by omega
    simp only [hkn, hout, decide_false, Bool.and_false, Bool.false_and]

end

/-! ### Reflected table words

A right shift brings bits above `m` down, so the reflected builder is compared by extension, not by truncation. -/

theorem reflectedRound_setWidth {m : Nat} (hm : m ≤ 64) (p v : BitVec m) :
    reflectedRound (p.setWidth 64) (v.setWidth 64) = (WidthIndexed.reflectedRound p v).setWidth 64 := by
  have htest : v.setWidth 64 &&& 1 = 0 ↔ v.getLsbD 0 = false := by
    rw [and_one_eq_zero_iff, BitVec.getLsbD_setWidth, decide_eq_true (by decide), Bool.true_and]
  rw [reflectedRound, WidthIndexed.reflectedRound, if_congr htest rfl rfl]
  cases v.getLsbD 0 <;> simp [BitVec.setWidth_ushiftRight hm]

/-- A reflected table word (R123), the polynomial word being an `m`-bit value. -/
theorem reflectedWord_setWidth {m : Nat} (h8 : 8 ≤ m) (hm : m ≤ 64) (bits : Nat) (p : BitVec m) (i : Byte) :
    reflectedWord (p.setWidth 64) i.toNat = (WidthIndexed.tableWord bits true p i).setWidth 64 := by
  have hiter (k : Nat) : ∀ v : BitVec m, repeatTimes (reflectedRound (p.setWidth 64)) k (v.setWidth 64) =
      ((WidthIndexed.reflectedRound p)^[k] v).setWidth 64 := by
    induction k with
    | zero => exact fun v => rfl
    | succ k ih =>
      exact fun v => by rw [repeatTimes, reflectedRound_setWidth hm, ih, Function.iterate_succ_apply]
  have hstart : BitVec.ofNat 64 i.toNat = (i.setWidth m).setWidth 64 := by
    rw [BitVec.ofNat_toNat, BitVec.setWidth_setWidth (by omega)]
  rw [reflectedWord, hstart, hiter]
  rfl

end Sys2Proof.Machine
end

section
/-! PROOFS. The arithmetic of the two table builders and of the bit-serial rule over `BitVec m`: the rounds are linear
over XOR, rounds in which no bit is tested are shifts, a byte of the bit-serial rule is eight rounds of the forward
builder, and the reflected builder is the forward one read from the other end. -/

namespace Sys2Proof.WidthIndexed

/-! ### Linearity (R125) -/

theorem ite_xor_bit {m : Nat} (a b : Bool) (p : BitVec m) :
    (if Bool.xor a b then p else 0) = (if a then p else 0) ^^^ (if b then p else 0) := by
  cases a <;> cases b <;> simp

theorem xor_and {m : Nat} (u v mask : BitVec m) : (u ^^^ v) &&& mask = (u &&& mask) ^^^ (v &&& mask) :=
  BitVec.eq_of_getLsbD_eq fun k _ => by
    simp only [BitVec.getLsbD_and, BitVec.getLsbD_xor, Bool.and_xor_distrib_right]

theorem forwardRound_xor {m : Nat} (n : Nat) (p u v : BitVec m) :
    forwardRound n p (u ^^^ v) = forwardRound n p u ^^^ forwardRound n p v := by
  rw [forwardRound, BitVec.shiftLeft_xor_distrib, BitVec.getLsbD_xor, ite_xor_bit, forwardRound, forwardRound,
    ← xor_and]
  ac_rfl

theorem reflectedRound_xor {m : Nat} (p u v : BitVec m) :
    reflectedRound p (u ^^^ v) = reflectedRound p u ^^^ reflectedRound p v := by
  rw [reflectedRound, BitVec.ushiftRight_xor_distrib, BitVec.getLsbD_xor, ite_xor_bit, reflectedRound, reflectedRound]
  ac_rfl

theorem iterate_xor {m : Nat} {f : BitVec m → BitVec m} (h : ∀ u v, f (u ^^^ v) = f u ^^^ f v) (k : Nat) :
    ∀ u v, f^[k] (u ^^^ v) = f^[k] u ^^^ f^[k] v := by
  induction k with
  | zero => exact fun _ _ => rfl
  | succ k ih => exact fun u v => by simp only [Function.iterate_succ_apply, h, ih]

theorem tableWord_xor {m : Nat} (n : Nat) (reflect : Bool) (p : BitVec m) (a b : Byte) :
    tableWord n reflect p (a ^^^ b) = tableWord n reflect p a ^^^ tableWord n reflect p b := by
  cases reflect with
  | false =>
    simp only [tableWord, BitVec.setWidth_xor, BitVec.shiftLeft_xor_distrib, Bool.false_eq_true, if_false]
    exact iterate_xor (forwardRound_xor n p) 8 _ _
  | true =>
    simp only [tableWord, BitVec.setWidth_xor, if_true]
    exact iterate_xor (reflectedRound_xor p) 8 _ _

theorem tableWord_zero {m : Nat} (n : Nat) (reflect : Bool) (p : BitVec m) : tableWord n reflect p 0 = 0 := by
  have h := tableWord_xor n reflect p 0 0
  rwa [BitVec.xor_self, BitVec.xor_self] at h

/-! ### Rounds that only shift -/

/-- At the CRC's own width nothing is left to mask. -/
theorem forwardRound_self {n : Nat} (p v : BitVec n) :
    forwardRound n p v = (v <<< 1) ^^^ (if v.getLsbD (n - 1) then p else 0) := by
  have hmask : BitVec.ofNat n (2 ^ n - 1) = BitVec.allOnes n := by
    rw [BitVec.allOnes, BitVec.ofNatLT_eq_ofNat]
  rw [forwardRound, hmask, BitVec.and_allOnes]

/-- With the top `k` of `n` bits clear, `k` rounds of the forward builder shift. -/
theorem forwardRound_iterate_shift {n : Nat} (p : BitVec n) (k : Nat) : ∀ v : BitVec n,
    (∀ j < n, n - k ≤ j → v.getLsbD j = false) → (forwardRound n p)^[k] v = v <<< k := by
  induction k with
  | zero => exact fun v _ => (BitVec.shiftLeft_zero v).symm
  | succ k ih =>
    intro v hv
    have htop : v.getLsbD (n - 1) = false := by
      by_cases hn : n - 1 < n
      · exact hv _ hn (by omega)
      · exact BitVec.getLsbD_of_ge v _ (Nat.le_of_not_lt hn)
    have hround : forwardRound n p v = v <<< 1 := by
      rw [forwardRound_self, htop]
      exact BitVec.xor_zero
    rw [Function.iterate_succ_apply, hround, ih, ← BitVec.shiftLeft_add, Nat.add_comm]
    intro j hj hjk
    rw [BitVec.getLsbD_shiftLeft, hv _ (by omega) (by omega), Bool.and_false]

/-- With the low `k` bits clear, `k` rounds of the reflected builder shift. -/
theorem reflectedRound_iterate_shift {m : Nat} (p : BitVec m) (k : Nat) : ∀ v : BitVec m,
    (∀ j < k, v.getLsbD j = false) → (reflectedRound p)^[k] v = v >>> k := by
  induction k with
  | zero => exact fun v _ => (BitVec.ushiftRight_zero v).symm
  | succ k ih =>
    intro v hv
    have hround : reflectedRound p v = v >>> 1 := by
      rw [reflectedRound, hv 0 (by omega)]
      exact BitVec.xor_zero
    rw [Function.iterate_succ_apply, hround, ih, ← BitVec.shiftRight_add, Nat.add_comm]
    intro j hj
    rw [BitVec.getLsbD_ushiftRight, hv _ (by omega)]

/-! ### The forward builder and the bit-serial rule at the CRC's own width -/

/-- One round over a register with pending input bits `r` above it is one bit of the bit-serial rule, with the rest of
`r` moved up. -/
theorem forwardRound_pending {n : Nat} (p v r : BitVec n) :
    forwardRound n p (v ^^^ r) = bitStep n p v (r.getLsbD (n - 1)) ^^^ (r <<< 1) := by
  rw [forwardRound_self, bitStep, BitVec.shiftLeft_xor_distrib, BitVec.getLsbD_xor]
  ac_rfl

/-- The bit-serial rule on a byte is eight rounds of the forward builder, the byte laid on the register's top. -/
theorem bitSerial_eq_iterate {n : Nat} (h8 : 8 ≤ n) (p v : BitVec n) (byte : Byte) :
    bitSerial n p v byte = (forwardRound n p)^[8] (v ^^^ (byte.setWidth n <<< (n - 8))) := by
  have hpending (k : Nat) (hk : k ≤ 8) : (forwardRound n p)^[k] (v ^^^ (byte.setWidth n <<< (n - 8))) =
      (List.range k).foldl (fun u j => bitStep n p u (byte.getLsbD (7 - j))) v ^^^
        (byte.setWidth n <<< (n - 8 + k)) := by
    induction k with
    | zero => rfl
    | succ k ih =>
      have hinput : (byte.setWidth n <<< (n - 8 + k)).getLsbD (n - 1) = byte.getLsbD (7 - k) := by
        have h1 : n - 1 < n := by omega
        have h2 : ¬ n - 1 < n - 8 + k := by omega
        have h3 : n - 1 - (n - 8 + k) = 7 - k := by omega
        have h4 : 7 - k < n := by omega
        simp only [BitVec.getLsbD_shiftLeft, BitVec.getLsbD_setWidth, h1, h2, h3, h4, decide_true, decide_false,
          Bool.not_false, Bool.true_and]
      rw [Function.iterate_succ_apply', ih (by omega), forwardRound_pending, hinput, List.range_succ,
        List.foldl_append, List.foldl_cons, List.foldl_nil, ← BitVec.shiftLeft_add, Nat.add_assoc]
  have hgone : byte.setWidth n <<< (n - 8 + 8) = 0 := BitVec.shiftLeft_eq_zero (by omega)
  rw [hpending 8 le_rfl, hgone, bitSerial]
  exact BitVec.xor_zero.symm

/-- Eight rounds on a register: the top byte chooses the table word, the rest is shifted up. -/
theorem forwardRound_iterate_eq_table {n : Nat} (h8 : 8 ≤ n) (p v : BitVec n) :
    (forwardRound n p)^[8] v = (v <<< 8) ^^^ tableWord n false p ((v >>> (n - 8)).setWidth 8) := by
  obtain ⟨top, htop⟩ : ∃ top, top = ((v >>> (n - 8)).setWidth 8).setWidth n <<< (n - 8) := ⟨_, rfl⟩
  have hword : tableWord n false p ((v >>> (n - 8)).setWidth 8) = (forwardRound n p)^[8] top := by
    rw [htop]
    rfl
  have hgone : top <<< 8 = 0 := by
    rw [htop, ← BitVec.shiftLeft_add]
    exact BitVec.shiftLeft_eq_zero (by omega)
  have hrest : (forwardRound n p)^[8] (v ^^^ top) = (v ^^^ top) <<< 8 := by
    refine forwardRound_iterate_shift p 8 _ fun j hj hj8 => ?_
    have hlow : ¬ j < n - 8 := by omega
    have hbyte : j - (n - 8) < 8 := by omega
    have hback : n - 8 + (j - (n - 8)) = j := by omega
    rw [htop, BitVec.getLsbD_xor, BitVec.getLsbD_shiftLeft, BitVec.getLsbD_setWidth, BitVec.getLsbD_setWidth,
      BitVec.getLsbD_ushiftRight, hback]
    simp [hj, hlow, hbyte, show j - (n - 8) < n by omega]
  calc (forwardRound n p)^[8] v
    _ = (forwardRound n p)^[8] ((v ^^^ top) ^^^ top) := by rw [BitVec.xor_assoc, BitVec.xor_self]; simp
    _ = (v ^^^ top) <<< 8 ^^^ (forwardRound n p)^[8] top := by rw [iterate_xor (forwardRound_xor n p), hrest]
    _ = _ := by rw [BitVec.shiftLeft_xor_distrib, hgone, hword]; simp

/-- The table rule c (R153) is the bit-serial rule on the same byte. -/
theorem forwardTable_eq_bitSerial {n : Nat} (h8 : 8 ≤ n) (p v : BitVec n) (byte : Byte) :
    (v <<< 8) ^^^ tableWord n false p ((v >>> (n - 8)).setWidth 8 ^^^ byte) = bitSerial n p v byte := by
  rw [bitSerial_eq_iterate h8, iterate_xor (forwardRound_xor n p), forwardRound_iterate_eq_table h8, tableWord_xor,
    BitVec.xor_assoc]
  rfl

/-- `tbl[1] = P` (R125): seven rounds bring the one bit to the top, the eighth takes it out and puts `P` in. -/
theorem tableWord_forward_one {n : Nat} (h8 : 8 ≤ n) (p : BitVec n) : tableWord n false p 1 = p := by
  have hone : (1 : Byte).setWidth n = 1#n := BitVec.setWidth_ofNat_one_eq_ofNat_one_of_lt (by decide)
  have hseven : (forwardRound n p)^[7] ((1 : Byte).setWidth n <<< (n - 8)) = BitVec.twoPow n (n - 1) := by
    have hbelow : n - 8 + 7 = n - 1 := by omega
    rw [hone, forwardRound_iterate_shift, ← BitVec.shiftLeft_add, hbelow, BitVec.twoPow_eq]
    intro j hj hj7
    have hne : n - 8 ≠ j := by omega
    rw [← BitVec.twoPow_eq, BitVec.getLsbD_twoPow, decide_eq_false hne, Bool.and_false]
  have htop : (BitVec.twoPow n (n - 1)).getLsbD (n - 1) = true := by
    have hin : n - 1 < n := by omega
    rw [BitVec.getLsbD_twoPow, decide_eq_true hin, decide_eq_true rfl, Bool.true_and]
  have hgone : BitVec.twoPow n (n - 1) <<< 1 = 0 := by
    rw [BitVec.twoPow_eq, ← BitVec.shiftLeft_add]
    exact BitVec.shiftLeft_eq_zero (by omega)
  rw [tableWord, if_neg (by decide), Function.iterate_succ_apply', hseven, forwardRound_self, htop, hgone]
  exact BitVec.zero_xor

/-! ### The reflected builder -/

/-- Eight rounds on a register: the low byte chooses the table word, the rest is shifted down. -/
theorem reflectedRound_iterate_eq_table {m : Nat} (h8 : 8 ≤ m) (n : Nat) (p v : BitVec m) :
    (reflectedRound p)^[8] v = (v >>> 8) ^^^ tableWord n true p (v.setWidth 8) := by
  obtain ⟨low, hlow⟩ : ∃ low, low = (v.setWidth 8).setWidth m := ⟨_, rfl⟩
  have hword : tableWord n true p (v.setWidth 8) = (reflectedRound p)^[8] low := by
    rw [hlow]
    rfl
  have hbit (j : Nat) : low.getLsbD j = (decide (j < 8) && v.getLsbD j) := by
    by_cases hj : j < 8
    · have hjm : j < m := by omega
      simp only [hlow, BitVec.getLsbD_setWidth, hj, hjm, decide_true, Bool.true_and]
    · simp only [hlow, BitVec.getLsbD_setWidth, hj, decide_false, Bool.false_and, Bool.and_false]
  have hgone : low >>> 8 = 0 := by
    refine BitVec.eq_of_getLsbD_eq fun j _ => ?_
    have hout : ¬ 8 + j < 8 := by omega
    rw [BitVec.getLsbD_ushiftRight, hbit, decide_eq_false hout, Bool.false_and]
    exact BitVec.getLsbD_zero.symm
  have hrest : (reflectedRound p)^[8] (v ^^^ low) = (v ^^^ low) >>> 8 :=
    reflectedRound_iterate_shift p 8 _ fun j hj => by
      rw [BitVec.getLsbD_xor, hbit, decide_eq_true hj, Bool.true_and, Bool.xor_self]
  calc (reflectedRound p)^[8] v
    _ = (reflectedRound p)^[8] ((v ^^^ low) ^^^ low) := by rw [BitVec.xor_assoc, BitVec.xor_self]; simp
    _ = (v ^^^ low) >>> 8 ^^^ (reflectedRound p)^[8] low := by rw [iterate_xor (reflectedRound_xor p), hrest]
    _ = _ := by rw [BitVec.ushiftRight_xor_distrib, hgone, hword]; simp

/-- `tbl[0x80] = P` (R125): seven rounds bring the one bit to the bottom, the eighth takes it out and puts `P` in. -/
theorem tableWord_reflected_top {m : Nat} (h8 : 8 ≤ m) (n : Nat) (p : BitVec m) : tableWord n true p 0x80 = p := by
  have hbit (j : Nat) : ((0x80 : Byte).setWidth m).getLsbD j = decide (j = 7) := by
    have hpow : (0x80 : Byte) = BitVec.twoPow 8 7 := rfl
    rw [hpow, BitVec.getLsbD_setWidth, BitVec.getLsbD_twoPow]
    by_cases hj : j = 7
    · have hin : 7 < m := by omega
      simp [hj, hin]
    · simp [hj, Ne.symm hj]
  have hseven : (reflectedRound p)^[7] ((0x80 : Byte).setWidth m) = (0x80 : Byte).setWidth m >>> 7 :=
    reflectedRound_iterate_shift p 7 _ fun j hj => by rw [hbit, decide_eq_false (Nat.ne_of_lt hj)]
  have hgone : (0x80 : Byte).setWidth m >>> 7 >>> 1 = 0 := by
    refine BitVec.eq_of_getLsbD_eq fun j _ => ?_
    have hne : 7 + (1 + j) ≠ 7 := by omega
    rw [BitVec.getLsbD_ushiftRight, BitVec.getLsbD_ushiftRight, hbit, decide_eq_false hne]
    exact BitVec.getLsbD_zero.symm
  rw [tableWord, if_pos rfl, Function.iterate_succ_apply', hseven, reflectedRound, hgone, BitVec.getLsbD_ushiftRight,
    hbit]
  exact BitVec.zero_xor

/-! ### The reflected builder as the forward one read from the other end -/

theorem reverse_xor {n : Nat} (u v : BitVec n) : (u ^^^ v).reverse = u.reverse ^^^ v.reverse :=
  BitVec.eq_of_getLsbD_eq fun k _ => by
    simp only [BitVec.getLsbD_reverse, BitVec.getLsbD_xor, BitVec.getMsbD_xor]

theorem reverse_shiftLeft {n : Nat} (v : BitVec n) (k : Nat) : (v <<< k).reverse = v.reverse >>> k :=
  BitVec.eq_of_getLsbD_eq fun j hj => by
    rw [BitVec.getLsbD_reverse, BitVec.getMsbD_shiftLeft, BitVec.getLsbD_ushiftRight, BitVec.getLsbD_reverse,
      Nat.add_comm]

theorem reverse_forwardRound {n : Nat} (p v : BitVec n) :
    (forwardRound n p v).reverse = reflectedRound p.reverse v.reverse := by
  have htest : v.reverse.getLsbD 0 = v.getLsbD (n - 1) := by
    rw [BitVec.getLsbD_reverse, BitVec.getMsbD, Nat.sub_zero]
    by_cases hn : 0 < n
    · rw [decide_eq_true hn, Bool.true_and]
    · rw [decide_eq_false hn, Bool.false_and, BitVec.getLsbD_of_ge v _ (by omega)]
  rw [forwardRound_self, reverse_xor, reverse_shiftLeft, reflectedRound, htest]
  cases v.getLsbD (n - 1) with
  | false => simp
  | true => rfl

/-- A byte laid on the top of a register is the reversed byte at the bottom of the reversed register. -/
theorem reverse_topByte {n : Nat} (h8 : 8 ≤ n) (byte : Byte) :
    (byte.reverse.setWidth n <<< (n - 8)).reverse = byte.setWidth n := by
  refine BitVec.eq_of_getLsbD_eq fun j hj => ?_
  rw [BitVec.getLsbD_reverse, BitVec.getMsbD, BitVec.getLsbD_shiftLeft, BitVec.getLsbD_setWidth,
    BitVec.getLsbD_setWidth, BitVec.getLsbD_reverse, BitVec.getMsbD]
  have hin : n - 1 - j < n := by omega
  by_cases hj8 : j < 8
  · have hhigh : ¬ n - 1 - j < n - 8 := by omega
    have hin' : n - 1 - j - (n - 8) < n := by omega
    have hbyte : n - 1 - j - (n - 8) < 8 := by omega
    have hback : 8 - 1 - (n - 1 - j - (n - 8)) = j := by omega
    simp only [hj, hin, hhigh, hin', hbyte, hback, decide_true, decide_false, Bool.not_false, Bool.true_and]
  · have hlow : n - 1 - j < n - 8 := by omega
    rw [BitVec.getLsbD_of_ge byte j (by omega)]
    simp only [hlow, decide_true, Bool.not_true, Bool.and_false, Bool.false_and]

/-- The table rule b (R152) is the bit-serial rule on the reversed byte and polynomial word, read from the other end. -/
theorem reflectedTable_eq_bitSerial {n : Nat} (h8 : 8 ≤ n) (p v : BitVec n) (byte : Byte) :
    (v.reverse >>> 8) ^^^ tableWord n true p.reverse (v.reverse.setWidth 8 ^^^ byte) =
      (bitSerial n p v byte.reverse).reverse := by
  have hmirror : Function.Semiconj BitVec.reverse (forwardRound n p) (reflectedRound p.reverse) :=
    reverse_forwardRound p
  rw [bitSerial_eq_iterate h8, (hmirror.iterate_right 8).eq, reverse_xor, reverse_topByte h8,
    iterate_xor (reflectedRound_xor _), reflectedRound_iterate_eq_table h8 n, tableWord_xor, BitVec.xor_assoc]
  rfl

end Sys2Proof.WidthIndexed
end

section
/-! PROOFS. The table builder (spec/41_table_builder.md): its words as the words of the arithmetic at the CRC's own
width, and their bounds and laws. -/

namespace Sys2Proof.Machine

/-! ### Bounds (R121, R124) -/

theorem repeatTimes_succ_apply (f : Word → Word) (k : Nat) : ∀ v, repeatTimes f (k + 1) v = f (repeatTimes f k v) := by
  induction k with
  | zero => exact fun _ => rfl
  | succ k ih => exact fun v => ih (f v)

theorem ofNat_allOnes_lt (n : Nat) : (BitVec.ofNat 64 (2 ^ n - 1)).toNat < 2 ^ n := by
  have hone := Nat.one_le_two_pow (n := n)
  exact lt_of_le_of_lt (Nat.mod_le _ _) (by omega)

/-- Each forward word is the result of a round, which the mask of R26 cuts to `n` bits. -/
theorem forwardWord_lt {n w : Nat} (hpos : 1 ≤ n) (hn : n ≤ w) (hw : w ≤ 64) (p : Word) (i : Nat) :
    (forwardWord w p n i).toNat < 2 ^ n := by
  rw [forwardWord, repeatTimes_succ_apply, forwardRound, BitVec.toNat_and, maskOf_highBitOf hpos hn hw]
  exact Nat.and_lt_two_pow _ (ofNat_allOnes_lt n)

/-- A reflected table word (R123) for a polynomial word of `m` bits. -/
theorem reflectedWord_eq {m : Nat} (h8 : 8 ≤ m) (hm : m ≤ 64) (n : Nat) {p : Word} (hp : p.toNat < 2 ^ m) (i : Byte) :
    reflectedWord p i.toNat = (WidthIndexed.tableWord n true (p.setWidth m) i).setWidth 64 := by
  rw [← reflectedWord_setWidth h8 hm, setWidth_setWidth_of_lt hp]

theorem reflectedWord_lt {m : Nat} (h8 : 8 ≤ m) (hm : m ≤ 64) {p : Word} (hp : p.toNat < 2 ^ m) {i : Nat}
    (hi : i < 256) : (reflectedWord p i).toNat < 2 ^ m := by
  have hbyte : (BitVec.ofNat 8 i).toNat = i := Nat.mod_eq_of_lt hi
  rw [← hbyte, reflectedWord_eq h8 hm m hp]
  exact setWidth_toNat_lt hm _

/-- A forward table word (R121) uses the low `n` bits of the polynomial word. -/
theorem forwardWord_eq {n w : Nat} (hpos : 1 ≤ n) (hn : n ≤ w) (hw : w ≤ 64) (p : Word) (i : Byte) :
    forwardWord w p n i.toNat = (WidthIndexed.tableWord n false (p.setWidth n) i).setWidth 64 := by
  rw [← setWidth_forwardWord hpos le_rfl hn hw, setWidth_setWidth_of_lt (forwardWord_lt hpos hn hw p _)]

/-- Forward table words depend on the significant bits of the polynomial word only. -/
theorem forwardWord_congr {n w : Nat} (hpos : 1 ≤ n) (hn : n ≤ w) (hw : w ≤ 64) {p q : Word}
    (h : p.setWidth n = q.setWidth n) (i : Byte) : forwardWord w p n i.toNat = forwardWord w q n i.toNat := by
  rw [forwardWord_eq hpos hn hw, forwardWord_eq hpos hn hw, h]

/-- Without a bound on the polynomial word: the reflected words are those of the arithmetic over 64 bits. -/
theorem reflectedWord_eq_word (n : Nat) (p : Word) (i : Byte) :
    reflectedWord p i.toNat = WidthIndexed.tableWord n true p i := by
  rw [reflectedWord_eq (by decide) le_rfl n p.isLt, BitVec.setWidth_eq, BitVec.setWidth_eq]

end Sys2Proof.Machine
end

section
/-! ### The obligations on the table builder -/

open Sys2Proof Sys2Proof.Machine WidthIndexed

/-- Settles O23: the last round of a forward word is masked; a reflected word is one over `bits` bits. -/
theorem tableWordsFitTheCrcWidth : Obligations.TableWordsFitTheCrcWidth := by
  intro p bits i hpos hle haligned hi
  exact ⟨forwardWord_lt hpos (le_widthSelect hle) (widthSelect_le bits) p i, fun hp =>
    reflectedWord_lt (by omega) hle hp hi⟩

/-- Settles O24: the laws of the arithmetic at the CRC's own width, and for the reflected builder over 64 bits. -/
theorem tableLaws : Obligations.TableLaws := by
  intro p bits hpos hle haligned
  have h8 : 8 ≤ bits := by omega
  have hforward := forwardWord_eq hpos (le_widthSelect hle) (widthSelect_le bits) p
  have hreflected := reflectedWord_eq_word bits p
  refine ⟨?zeroF, ?zeroR, ?oneF, ?topR, fun a b => ⟨?xorF, ?xorR⟩⟩
  case zeroF => exact (hforward 0).trans (by rw [tableWord_zero]; exact BitVec.setWidth_zero _ _)
  case zeroR => exact (hreflected 0).trans (tableWord_zero ..)
  case oneF =>
    have hone := congrArg BitVec.toNat (hforward 1)
    rwa [tableWord_forward_one h8, BitVec.toNat_setWidth_of_le hle, BitVec.toNat_setWidth] at hone
  case topR => exact (hreflected 0x80).trans (tableWord_reflected_top (by decide) ..)
  case xorF => rw [hforward, hforward, hforward, tableWord_xor, BitVec.setWidth_xor]
  case xorR => rw [hreflected, hreflected, hreflected, tableWord_xor]

end

section
/-! PROOFS. Steps and commands: every step completes, and what each command and each step leaves unchanged
(spec/10_state.md R37), answers (R95) and records (R33, R34). -/

namespace Sys2Proof.Machine

/-! ### Every command and every step completes (R197, R216) -/

theorem exec_create_accepting (reorder reflect : Bool) (bits : Byte) {s : State} (hf : s.state ≠ .fault) :
    exec (.create reorder reflect bits) s = .next (createEffect reorder reflect bits s) :=
  whenAccepting_accepting hf

theorem exec_next (i : Instr) (s : State) : ∃ t, exec i s = .next t := by
  cases hs : s.state with
  | ready => exact ⟨_, exec_ready i hs⟩
  | fault => exact ⟨_, exec_fault i hs⟩
  | unconfigured =>
    cases i with
    | create reorder reflect bits => exact ⟨_, exec_create_accepting reorder reflect bits (by simp [hs])⟩
    | _ => exact ⟨_, exec_unconfigured (by rfl) hs⟩

theorem step_next (s : State) : ∃ t, step s = .next t := by
  match he : s.events with
  | [] => exact ⟨_, step_idle he⟩
  | .por :: _ => exact ⟨_, step_por he⟩
  | .command r :: _ =>
    by_cases hf : s.state = .fault
    · exact ⟨_, step_turned_away he hf⟩
    · cases hd : decode r.cmd with
      | illegal why => exact ⟨_, step_illegal hf he hd⟩
      | command i => exact step_command hf he hd ▸ exec_next i _

/-! ### What CREATE makes of a state (R130) -/

/-- CREATE's effect: the configuration with `bits` in range, else ConfigFault. -/
theorem createEffect_cases (reorder reflect : Bool) (bits : Byte) (s : State) :
    (1 ≤ bits.toNat ∧ bits.toNat ≤ 64 ∧ createEffect reorder reflect bits s = configure reorder reflect bits s) ∨
      ((bits.toNat = 0 ∨ 64 < bits.toNat) ∧ createEffect reorder reflect bits s = raiseFault .configFault s) := by
  cases hb : bitsInRange bits with
  | true =>
    obtain ⟨hpos, hle⟩ := (bitsInRange_iff bits).mp hb
    exact .inl ⟨hpos, hle, createEffect_in_range reorder reflect s hb⟩
  | false =>
    have hout := mt (bitsInRange_iff bits).mpr (by simp [hb])
    exact .inr ⟨by omega, createEffect_out_of_range reorder reflect s hb⟩

/-! ### Commands that keep the configuration (R37) -/

theorem State.SameConfig.refl (s : State) : s.SameConfig s :=
  ⟨rfl, rfl, rfl, rfl, rfl, rfl, rfl, rfl, rfl, rfl, fun _ => rfl⟩

theorem State.SameConfig.trans {s t u : State} (h : s.SameConfig t) (h' : t.SameConfig u) : s.SameConfig u :=
  ⟨h'.poly.trans h.poly, h'.initial.trans h.initial, h'.finalXor.trans h.finalXor, h'.highBit.trans h.highBit,
    h'.mask.trans h.mask, h'.bits.trans h.bits, h'.byTable.trans h.byTable, h'.reflect.trans h.reflect,
    h'.reorder.trans h.reorder, h'.wsel.trans h.wsel, fun i => (h'.tbl i).trans (h.tbl i)⟩

theorem State.SameRegisters.refl (s : State) : s.SameRegisters s :=
  ⟨rfl, rfl, rfl, rfl, rfl, rfl, rfl, rfl, rfl, rfl, rfl⟩

theorem sameConfig_raiseFault (code : FaultCode) (s : State) : s.SameConfig (raiseFault code s) :=
  ⟨rfl, rfl, rfl, rfl, rfl, rfl, rfl, rfl, rfl, rfl, fun _ => rfl⟩

theorem sameRegisters_raiseFault (code : FaultCode) (s : State) : s.SameRegisters (raiseFault code s) :=
  ⟨rfl, rfl, rfl, rfl, rfl, rfl, rfl, rfl, rfl, rfl, rfl⟩

theorem sameRegisters_respondWith (r : Response) (s : State) : s.SameRegisters (s.respondWith r) :=
  ⟨rfl, rfl, rfl, rfl, rfl, rfl, rfl, rfl, rfl, rfl, rfl⟩

/-- Taking an event and sampling the port touches no register. -/
theorem sameConfig_dropEvent (s : State) : s.SameConfig s.dropEvent :=
  ⟨rfl, rfl, rfl, rfl, rfl, rfl, rfl, rfl, rfl, rfl, fun _ => rfl⟩

theorem sameConfig_accept (s : State) (r : Request) : s.SameConfig (s.dropEvent.sample r) :=
  ⟨rfl, rfl, rfl, rfl, rfl, rfl, rfl, rfl, rfl, rfl, fun _ => rfl⟩

theorem sameConfig_readyEffect {i : Instr} (hi : i.isCreate = false) (s : State) : s.SameConfig (readyEffect i s) := by
  cases i with
  | create => cases hi
  | _ => exact ⟨rfl, rfl, rfl, rfl, rfl, rfl, rfl, rfl, rfl, rfl, fun _ => rfl⟩

theorem exec_sameConfig {i : Instr} {s t : State} (hi : i.isCreate = false) (h : exec i s = .next t) :
    s.SameConfig t := by
  obtain ⟨-, rfl⟩ | ⟨-, hcreate, -⟩ | ⟨-, -, rfl⟩ | ⟨-, rfl⟩ := exec_cases h
  · exact sameConfig_readyEffect hi s
  · simp [hi] at hcreate
  · exact sameConfig_raiseFault _ s
  · exact State.SameConfig.refl _

/-! ### The ports and the host's list -/

theorem createEffect_frame (reorder reflect : Bool) (bits : Byte) (s : State) :
    (createEffect reorder reflect bits s).port = s.port ∧ (createEffect reorder reflect bits s).events = s.events ∧
      (createEffect reorder reflect bits s).responses = s.responses := by
  obtain ⟨-, -, h⟩ | ⟨-, h⟩ := createEffect_cases reorder reflect bits s
  · exact h ▸ ⟨rfl, rfl, rfl⟩
  · exact h ▸ ⟨rfl, rfl, rfl⟩

theorem readyEffect_frame (i : Instr) (s : State) :
    (readyEffect i s).port = s.port ∧ (readyEffect i s).events = s.events := by
  cases i with
  | create reorder reflect bits =>
    obtain ⟨hport, hevents, -⟩ := createEffect_frame reorder reflect bits s
    exact ⟨hport, hevents⟩
  | _ => exact ⟨rfl, rfl⟩

theorem exec_frame {i : Instr} {s t : State} (h : exec i s = .next t) : t.port = s.port ∧ t.events = s.events := by
  obtain ⟨-, rfl⟩ | ⟨-, -, rfl⟩ | ⟨-, -, rfl⟩ | ⟨-, rfl⟩ := exec_cases h
  · exact readyEffect_frame i s
  · exact readyEffect_frame i s
  · exact ⟨rfl, rfl⟩
  · exact ⟨rfl, rfl⟩

/-- A step takes the oldest event off the host's list. -/
theorem step_events {s t : State} (h : step s = .next t) : t.events = s.events.tail := by
  obtain ⟨he, rfl⟩ | ⟨_, -, rfl⟩ | ⟨_, _, -, -, rfl⟩ | ⟨_, _, _, -, -, -, rfl⟩ | ⟨r, _, _, -, -, -, hexec⟩ :=
    step_cases h
  · rw [he, List.tail_nil]
  · rfl
  · rfl
  · rfl
  · exact (exec_frame hexec).2

/-! ### Responses (R95) -/

theorem isCreate_of_read {i : Instr} (hi : i ∈ [Instr.getcrc, .getbytesBe, .getbytesLe]) : i.isCreate = false := by
  cases i with
  | create => simp at hi
  | _ => rfl

/-- A read drives a response. -/
theorem readyEffect_read {i : Instr} (hi : i ∈ [Instr.getcrc, .getbytesBe, .getbytesLe]) (s : State) :
    ∃ r, readyEffect i s = s.respondWith r := by
  simp only [List.mem_cons, List.not_mem_nil, or_false] at hi
  obtain rfl | rfl | rfl := hi
  · exact ⟨_, rfl⟩
  · exact ⟨_, rfl⟩
  · exact ⟨_, rfl⟩

/-- Every other command drives none. -/
theorem readyEffect_not_read {i : Instr} (hi : i ∉ [Instr.getcrc, .getbytesBe, .getbytesLe]) (s : State) :
    (readyEffect i s).rsp = none ∧ (readyEffect i s).responses = s.responses := by
  cases i with
  | create reorder reflect bits =>
    obtain ⟨-, -, h⟩ | ⟨-, h⟩ := createEffect_cases reorder reflect bits s
    · rw [readyEffect, h]
      exact ⟨rfl, rfl⟩
    · rw [readyEffect, h]
      exact ⟨rfl, rfl⟩
  | digest byte => exact ⟨rfl, rfl⟩
  | reset => exact ⟨rfl, rfl⟩
  | _ => simp at hi

/-- The response of an accepted command. -/
theorem exec_response {i : Instr} {s t : State} (hf : s.state ≠ .fault) (h : exec i s = .next t) :
    if s.state = .ready ∧ i ∈ [Instr.getcrc, .getbytesBe, .getbytesLe] then
      ∃ x, t.rsp = some x ∧ t.responses = s.responses ++ [x]
    else t.rsp = none ∧ t.responses = s.responses := by
  obtain ⟨hs, rfl⟩ | ⟨hs, hcreate, rfl⟩ | ⟨hs, -, rfl⟩ | ⟨hs, -⟩ := exec_cases h
  · by_cases hi : i ∈ [Instr.getcrc, .getbytesBe, .getbytesLe]
    · obtain ⟨r, hr⟩ := readyEffect_read hi s
      rw [if_pos ⟨hs, hi⟩, hr]
      exact ⟨r, rfl, rfl⟩
    · rw [if_neg fun hread => hi hread.2]
      exact readyEffect_not_read hi s
  · rw [if_neg (by simp [hs])]
    exact readyEffect_not_read (fun hi => by simp [isCreate_of_read hi] at hcreate) s
  · rw [if_neg (by simp [hs])]
    exact ⟨rfl, rfl⟩
  · exact absurd hs hf

/-! ### The fault record (R32 to R34, R190) -/

/-- Outside FAULT the record is clear. -/
theorem faultRecord_iff_clear {s : State} (hf : s.state ≠ .fault) :
    s.FaultRecord ↔ s.faultCode = .noFault ∧ s.faultInfo = 0 := by
  unfold State.FaultRecord
  cases hc : s.faultCode <;> simp [hf]

theorem faultRecord_configFault {s : State} {reorder reflect : Bool} {bits : Byte}
    (hd : decode s.port.cmd = .command (.create reorder reflect bits)) (hout : bits.toNat = 0 ∨ 64 < bits.toNat) :
    (raiseFault .configFault s).FaultRecord := ⟨rfl, reorder, reflect, bits, hd, hout⟩

theorem faultRecord_notConfigured {s : State} {i : Instr} (hd : decode s.port.cmd = .command i)
    (hi : i.isCreate = false) : (raiseFault .notConfigured s).FaultRecord := ⟨rfl, i, hd, hi⟩

theorem faultRecord_illegalCommand {s : State} {why : Illegal} (hd : decode s.port.cmd = .illegal why) :
    (raiseFault .illegalCommand s).FaultRecord := ⟨rfl, why, hd⟩

theorem readyEffect_faultInfo {i : Instr} (hi : i.isCreate = false) (s : State) :
    (readyEffect i s).faultInfo = s.faultInfo := by
  cases i with
  | create => cases hi
  | _ => rfl

theorem faultRecord_readyEffect {i : Instr} {s : State} (hd : decode s.port.cmd = .command i) (hf : s.state ≠ .fault)
    (hs : s.FaultRecord) : (readyEffect i s).FaultRecord := by
  have hclear := (faultRecord_iff_clear hf).mp hs
  cases hi : i.isCreate with
  | false =>
    obtain ⟨hstate, hcode⟩ := readyEffect_status hi s
    rw [faultRecord_iff_clear (hstate ▸ hf), hcode, readyEffect_faultInfo hi]
    exact hclear
  | true =>
    cases i with
    | create reorder reflect bits =>
      obtain ⟨-, -, h⟩ | ⟨hout, h⟩ := createEffect_cases reorder reflect bits s
      · rw [readyEffect, h, faultRecord_iff_clear (by simp)]
        exact hclear
      · rw [readyEffect, h]
        exact faultRecord_configFault hd hout
    | _ => cases hi

/-- A command keeps the record explaining itself, its word being the one on the port. -/
theorem faultRecord_exec {i : Instr} {s t : State} (hd : decode s.port.cmd = .command i) (hs : s.FaultRecord)
    (h : exec i s = .next t) : t.FaultRecord := by
  obtain ⟨hr, rfl⟩ | ⟨hu, -, rfl⟩ | ⟨-, hi, rfl⟩ | ⟨-, rfl⟩ := exec_cases h
  · exact faultRecord_readyEffect hd (by simp [hr]) hs
  · exact faultRecord_readyEffect hd (by simp [hu]) hs
  · exact faultRecord_notConfigured hd hi
  · exact hs

theorem faultRecord_step {s t : State} (hs : s.FaultRecord) (h : step s = .next t) : t.FaultRecord := by
  obtain ⟨-, rfl⟩ | ⟨_, -, rfl⟩ | ⟨_, _, -, -, rfl⟩ | ⟨r, _, _, -, -, hd, rfl⟩ | ⟨r, _, i, -, -, hd, hexec⟩ :=
    step_cases h
  · exact hs
  · exact (faultRecord_iff_clear (by simp)).mpr ⟨rfl, rfl⟩
  · exact hs
  · exact faultRecord_illegalCommand (s := s.dropEvent.sample r) hd
  · exact faultRecord_exec (s := s.dropEvent.sample r) hd hs hexec

end Sys2Proof.Machine
end

section
/-! ### The obligations on the step, the ports and the fault record -/

open Sys2Proof Sys2Proof.Machine

/-- Settles O10: each kind of event has a next state. -/
theorem everyStepCompletes : Obligations.EveryStepCompletes := by
  intro s
  obtain ⟨t, ht⟩ := step_next s
  refine ⟨t, ht, step_events ht, fun he => ?_⟩
  cases (step_idle he).symm.trans ht
  rfl

/-- Settles O17: in FAULT a command is turned away, and a step only takes an event off the list. -/
theorem faultLastsUntilPowerOnReset : Obligations.FaultLastsUntilPowerOnReset := by
  refine ⟨fun s r rest hf he => ?_, fun i _ hf => exec_fault i hf, fun n _ hf hpor => runSteps_in_fault n hf hpor,
    fun s t hf h ht => ?_⟩
  · rw [step_turned_away he hf, State.dropEvent, he, List.tail_cons]
  · obtain ⟨-, rfl⟩ | ⟨rest, he, -⟩ | ⟨_, _, -, -, rfl⟩ | ⟨_, _, _, -, hs, -⟩ | ⟨_, _, _, -, hs, -⟩ := step_cases h
    · exact absurd hf ht
    · exact ⟨rest, he⟩
    · exact absurd hf ht
    · exact absurd hf hs
    · exact absurd hf hs

/-- Settles O18: each fault entry records the word that raises it, and nothing else writes the record but power-on
reset, which clears it. -/
theorem stepKeepsTheFaultRecord : Obligations.StepKeepsTheFaultRecord := fun _ _ => faultRecord_step

/-- Settles O19: an illegal word drives no response, and of the commands only the reads drive one. -/
theorem onlyReadsRespond : Obligations.OnlyReadsRespond := by
  intro s t r rest hf he h
  cases hd : decode r.cmd with
  | illegal why =>
    cases (step_illegal hf he hd).symm.trans h
    simp
  | command i =>
    rw [step_command hf he hd] at h
    simpa using exec_response (s := s.dropEvent.sample r) hf h

/-- Settles O9: on an accepted legal word. -/
theorem stepRunsTheDecodedCommand : Obligations.StepRunsTheDecodedCommand := by
  intro s r rest i hf he hd
  rw [step_command hf he hd, State.sample, State.dropEvent, he, List.tail_cons]

/-- Settles O11: the fields of `State.reset`. -/
theorem resetIsUnconfiguredWithoutFault : Obligations.ResetIsUnconfiguredWithoutFault :=
  ⟨rfl, rfl, rfl, rfl, rfl⟩

/-- Settles O12: the fields that power-on reset writes, and those that it leaves to the host. -/
theorem powerOnResetInAnyState : Obligations.PowerOnResetInAnyState := fun s rest he =>
  ⟨powerOnReset s.dropEvent, step_por he, rfl, rfl, rfl, rfl, rfl, by simp [he], rfl, rfl⟩

/-- Settles O15: the range check fails. -/
theorem badBitsRaiseConfigFault : Obligations.BadBitsRaiseConfigFault := by
  intro s reorder reflect bits hf hout
  obtain ⟨hpos, hle, -⟩ | ⟨-, h⟩ := createEffect_cases reorder reflect bits s
  · omega
  · rw [exec_create_accepting reorder reflect bits hf, h, raiseFault]

end

section
/-! ### The obligations on frames -/

open Sys2Proof Sys2Proof.Machine

/-- Settles O49: a configuration leaves the record, a ConfigFault the registers. -/
theorem frameOfCreate : Obligations.FrameOfCreate := by
  intro s t reorder reflect bits h
  obtain ⟨-, rfl⟩ | ⟨-, rfl⟩ := whenAccepting_cases h
  · obtain ⟨hport, hevents, hresponses⟩ := createEffect_frame reorder reflect bits s
    refine ⟨hport, hevents, hresponses, ?_⟩
    obtain ⟨-, -, h⟩ | ⟨-, h⟩ := createEffect_cases reorder reflect bits s
    · rw [h]
      exact ⟨fun _ => ⟨rfl, rfl⟩, nofun⟩
    · rw [h]
      exact ⟨nofun, fun _ => ⟨sameRegisters_raiseFault _ s, fun _ => rfl⟩⟩
  · exact ⟨rfl, rfl, rfl, fun _ => ⟨rfl, rfl⟩, fun _ => ⟨State.SameRegisters.refl t, fun _ => rfl⟩⟩

/-- Settles O50: DIGEST and RESET in READY end in `writeSum`, elsewhere they write the status or nothing. -/
theorem frameOfDigestAndReset : Obligations.FrameOfDigestAndReset := by
  intro s t i hi h
  have hcreate : i.isCreate = false := by obtain rfl | ⟨byte, rfl⟩ := hi <;> rfl
  have hread : i ∉ [Instr.getcrc, .getbytesBe, .getbytesLe] := by obtain rfl | ⟨byte, rfl⟩ := hi <;> simp
  obtain ⟨hport, hevents⟩ := exec_frame h
  refine ⟨exec_sameConfig hcreate h, hport, hevents, ?_⟩
  obtain ⟨hs, rfl⟩ | ⟨-, hcreate', -⟩ | ⟨hs, -, rfl⟩ | ⟨hs, rfl⟩ := exec_cases h
  · obtain ⟨hrsp, hresponses⟩ := readyEffect_not_read hread s
    obtain ⟨hstate, hcode⟩ := readyEffect_status hcreate s
    exact ⟨hresponses, fun _ => ⟨hstate, hcode, readyEffect_faultInfo hcreate s, hrsp⟩, fun hne => absurd hs hne⟩
  · simp [hcreate] at hcreate'
  · exact ⟨rfl, fun hr => by simp [hs] at hr, fun _ => rfl⟩
  · exact ⟨rfl, fun hr => by simp [hs] at hr, fun _ => rfl⟩

/-- Settles O51: a read in READY ends in `respondWith`, elsewhere it writes the status or nothing. -/
theorem frameOfTheReads : Obligations.FrameOfTheReads := by
  intro s t i hi h
  obtain ⟨hport, hevents⟩ := exec_frame h
  obtain ⟨hs, rfl⟩ | ⟨-, hcreate, -⟩ | ⟨hs, -, rfl⟩ | ⟨hs, rfl⟩ := exec_cases h
  · obtain ⟨r, hr⟩ := readyEffect_read hi s
    rw [hr]
    exact ⟨sameRegisters_respondWith r s, fun _ => rfl, rfl, rfl, fun _ => ⟨rfl, rfl, rfl⟩, fun hne => absurd hs hne⟩
  · simp [isCreate_of_read hi] at hcreate
  · exact ⟨sameRegisters_raiseFault _ s, fun _ => rfl, rfl, rfl, fun hr => by simp [hs] at hr, fun _ => rfl⟩
  · exact ⟨State.SameRegisters.refl t, fun _ => rfl, rfl, rfl, fun hr => by simp [hs] at hr, fun _ => rfl⟩

/-- Settles O52: of the accepted commands only a CREATE in range leaves another configuration. -/
theorem onlyCreateWritesTheConfiguration : Obligations.OnlyCreateWritesTheConfiguration := by
  intro s t h
  obtain ⟨-, rfl⟩ | ⟨rest, he, -⟩ | ⟨_, _, -, -, rfl⟩ | ⟨r, _, _, -, -, -, rfl⟩ | ⟨r, rest, i, he, hf, hd, hexec⟩ :=
    step_cases h
  · exact .inl (State.SameConfig.refl _)
  · exact .inr (.inl ⟨rest, he⟩)
  · exact .inl (sameConfig_dropEvent s)
  · exact .inl ((sameConfig_accept s r).trans (sameConfig_raiseFault _ _))
  · cases i with
    | create reorder reflect bits =>
      rw [exec_create_accepting reorder reflect bits (s := s.dropEvent.sample r) hf] at hexec
      obtain ⟨hpos, hle, -⟩ | ⟨-, h⟩ := createEffect_cases reorder reflect bits (s.dropEvent.sample r)
      · exact .inr (.inr ⟨r, rest, reorder, reflect, bits, he, hf, hd, hpos, hle⟩)
      · cases h.symm.trans (Host.Outcome.next.inj hexec)
        exact .inl ((sameConfig_accept s r).trans (sameConfig_raiseFault _ _))
    | _ => exact .inl ((sameConfig_accept s r).trans (exec_sameConfig (by rfl) hexec))

/-- Settles O53: faults and reads leave `sum`. -/
theorem onlyThreeCommandsWriteSum : Obligations.OnlyThreeCommandsWriteSum := by
  intro s t h
  obtain ⟨-, rfl⟩ | ⟨rest, he, -⟩ | ⟨_, _, -, -, rfl⟩ | ⟨r, _, _, -, -, -, rfl⟩ | ⟨r, rest, i, he, hf, hd, hexec⟩ :=
    step_cases h
  · exact .inl rfl
  · exact .inr (.inl ⟨rest, he⟩)
  · exact .inl rfl
  · exact .inl rfl
  · obtain ⟨hs, rfl⟩ | ⟨-, hcreate, -⟩ | ⟨-, -, rfl⟩ | ⟨-, rfl⟩ := exec_cases hexec
    · cases i with
      | create => exact .inr (.inr ⟨r, rest, _, he, hd, .inl ⟨rfl, hf⟩⟩)
      | digest byte => exact .inr (.inr ⟨r, rest, _, he, hd, .inr ⟨hs, .inr ⟨byte, rfl⟩⟩⟩)
      | reset => exact .inr (.inr ⟨r, rest, _, he, hd, .inr ⟨hs, .inl rfl⟩⟩)
      | _ => exact .inl rfl
    · exact .inr (.inr ⟨r, rest, i, he, hd, .inl ⟨hcreate, hf⟩⟩)
    · exact .inl rfl
    · exact .inl rfl

end

section
/-! PROOFS. The invariants (spec/10_state.md R27, R36, R39): what a configured engine's table holds, which table rule
DIGEST is in each mode, and that every step keeps cells, configuration and reflected range. -/

namespace Sys2Proof.Machine

/-! ### The table of a configured engine (R125) -/

theorem State.Configured.aligned {s : State} (hs : s.Configured) (ht : s.byTable = true) :
    s.bits.toNat % 8 = 0 ∧ 8 ≤ s.bits.toNat := by
  have hpos := hs.bitsPos
  have haligned : s.bits.toNat % 8 = 0 := beq_iff_eq.mp (hs.byTable.symm.trans ht)
  omega

theorem State.Configured.tblWord {s : State} (hs : s.Configured) (ht : s.byTable = true) (i : Byte) :
    s.tblWord i =
      if s.reflect then reflectedWord s.poly i.toNat else forwardWord s.width s.poly s.bits.toNat i.toNat := by
  have htbl := hs.tbl ht
  cases hr : s.reflect with
  | false => rw [hr] at htbl; exact tblWord_of_fill s _ htbl i
  | true => rw [hr] at htbl; exact tblWord_of_fill s _ htbl i

/-! ### At `bits = 8` rule a is rules b and c (R155) -/

theorem width_of_eight {s : State} (hs : s.Configured) (h8 : s.bits = 8) : s.width = 8 := by
  rw [hs.width, h8]
  rfl

theorem ruleB_eq_ruleA {s : State} (hinv : s.Inv) (hs : s.state = .ready) (h8 : s.bits = 8) (byte : Byte) :
    ruleB byte s = ruleA byte s := by
  have hfit := hinv.cells.sum
  rw [width_of_eight (hinv.ready hs) h8] at hfit
  have hgone : s.sum >>> 8 = 0 :=
    BitVec.eq_of_toNat_eq (by rw [BitVec.toNat_ushiftRight, Nat.shiftRight_eq_div_pow, Nat.div_eq_of_lt hfit]; rfl)
  rw [ruleA_eq, ruleB, hgone]
  exact BitVec.zero_xor

theorem ruleC_eq_ruleA {s : State} (hs : s.Configured) (h8 : s.bits = 8) (byte : Byte) :
    ruleC byte s = ruleA byte s := by
  have hgone : shiftLeft s.width s.sum 8 = 0 := by
    rw [shiftLeft_eq_ofNat (width_le s), width_of_eight hs h8, Nat.mul_mod_left]
    rfl
  have hzero : s.bits.toNat - 8 = 0 := by rw [h8]; rfl
  rw [ruleA_eq, ruleC, hgone, hzero, BitVec.ushiftRight_zero]
  exact BitVec.zero_xor

/-- In forward table mode DIGEST is rule c, at `bits = 8` as well. -/
theorem digestSum_forwardTable {s : State} (hs : s.Configured) (ht : s.byTable = true) (hr : s.reflect = false)
    (byte : Byte) : digestSum byte s = ruleC byte s := by
  by_cases h8 : s.bits = 8
  · rw [digestSum_ruleA byte ht h8, ruleC_eq_ruleA hs h8]
  · exact digestSum_ruleC byte ht h8 hr

/-- In reflected table mode DIGEST is rule b, at `bits = 8` as well. -/
theorem digestSum_reflectedTable {s : State} (hinv : s.Inv) (hs : s.state = .ready) (ht : s.byTable = true)
    (hr : s.reflect = true) (byte : Byte) : digestSum byte s = ruleB byte s := by
  by_cases h8 : s.bits = 8
  · rw [digestSum_ruleA byte ht h8, ruleB_eq_ruleA hinv hs h8]
  · exact digestSum_ruleB byte ht h8 hr

/-! ### Cells (R27) -/

/-- A reflection under the `high_bit` of a configured engine fits a cell. -/
theorem reflectBits_highBit_lt_width {s : State} (hs : s.Configured) (v : Word) :
    (reflectBits s.highBit v).toNat < 2 ^ s.width :=
  lt_two_pow_of_le (reflectBits_highBit_lt hs v) (bits_le_width hs)

theorem buildTable_wf {n : Nat} (hpos : 1 ≤ n) (hle : n ≤ 64) (reflect : Bool) {p : Word}
    (hp : p.toNat < 2 ^ widthSelect n) : (buildTable reflect (widthSelect n) p n).wf (widthSelect n) = true := by
  have hn := le_widthSelect hle
  have hw := widthSelect_le n
  have h8 : 8 ≤ widthSelect n := by have := widthSelect_cases n; omega
  cases reflect with
  | false => exact wf_fill _ _ fun i _ => lt_two_pow_of_le (forwardWord_lt hpos hn hw p i) hn
  | true => exact wf_fill _ _ fun i hi => reflectedWord_lt h8 hw hp hi

/-! ### CREATE establishes the invariant -/

theorem polyRegister_byTable (reflect : Bool) (highBit p : Word) : polyRegister true reflect highBit p = p := by
  cases reflect <;> rfl

section
variable (reorder reflect : Bool) {bits : Byte} (s : State) (hpos : 1 ≤ bits.toNat) (hle : bits.toNat ≤ 64)
include hpos hle

theorem configure_configured : (configure reorder reflect bits s).Configured where
  bitsPos := hpos
  bitsLe := hle
  width := configure_width reorder reflect bits s
  byTable := rfl
  highBit := highBitOf_eq hpos (le_widthSelect hle) (widthSelect_le _)
  mask := maskOf_highBitOf hpos (le_widthSelect hle) (widthSelect_le _)
  tbl ht := by
    rw [configure_byTable] at ht
    rw [configure_tbl, if_pos ht, configure_poly, ht, polyRegister_byTable, configure_width]
    rfl

theorem configure_cellsFit : (configure reorder reflect bits s).CellsFit := by
  have hc := configure_configured reorder reflect s hpos hle
  have hwidth := configure_width reorder reflect bits s
  have hbus (bus : Word) :
      (busOperand (widthSelect bits.toNat) bus).toNat < 2 ^ (configure reorder reflect bits s).width :=
    hwidth ▸ narrow_lt _ bus
  refine ⟨?sum, ?poly, hbus _, hbus _, hwidth ▸ narrow_lt _ _, ?mask, ?tbl⟩
  case sum =>
    rw [configure_sum, seedOf]
    split
    · exact reflectBits_highBit_lt_width hc _
    · exact hbus _
  case poly =>
    rw [configure_poly, polyRegister]
    split
    · exact reflectBits_highBit_lt_width hc _
    · exact hbus _
  case mask =>
    rw [hc.mask]
    exact lt_two_pow_of_le (ofNat_allOnes_lt _) (bits_le_width hc)
  case tbl =>
    rw [configure_tbl, hwidth]
    split
    · exact buildTable_wf hpos hle reflect (narrow_lt _ _)
    · exact wf_nil _

theorem configure_inv : (configure reorder reflect bits s).Inv :=
  ⟨configure_cellsFit reorder reflect s hpos hle, fun _ => configure_configured reorder reflect s hpos hle⟩

end

/-! ### Steps keep the invariant -/

theorem raiseFault_inv {s : State} (hs : s.CellsFit) (code : FaultCode) : (raiseFault code s).Inv :=
  ⟨{ hs with }, nofun⟩

theorem powerOnReset_inv (s : State) : (powerOnReset s).Inv where
  cells := ⟨narrow_lt _ _, narrow_lt _ _, narrow_lt _ _, narrow_lt _ _, narrow_lt _ _, narrow_lt _ _, wf_nil _⟩
  ready := nofun

/-- Neither the response port nor the host's fields stand in the invariant. -/
theorem noResponse_inv {s : State} (hs : s.Inv) : s.noResponse.Inv :=
  ⟨{ hs.cells with }, fun hr => { hs.ready hr with }⟩

theorem respondWith_inv {s : State} (hs : s.Inv) (r : Response) : (s.respondWith r).Inv :=
  ⟨{ hs.cells with }, fun hr => { hs.ready hr with }⟩

theorem dropEvent_inv {s : State} (hs : s.Inv) : s.dropEvent.Inv :=
  ⟨{ hs.cells with }, fun hr => { hs.ready hr with }⟩

theorem sample_inv {s : State} (hs : s.Inv) (r : Request) : (s.sample r).Inv :=
  ⟨{ hs.cells with }, fun hr => { hs.ready hr with }⟩

theorem readyEffect_inv (i : Instr) {s : State} (hs : s.Inv) : (readyEffect i s).Inv := by
  cases i with
  | create reorder reflect bits =>
    obtain ⟨hpos, hle, h⟩ | ⟨-, h⟩ := createEffect_cases reorder reflect bits s
    · rw [readyEffect, h]
      exact configure_inv reorder reflect s hpos hle
    · rw [readyEffect, h]
      exact raiseFault_inv hs.cells _
  | digest byte => exact noResponse_inv (writeSum_inv hs _)
  | reset => exact noResponse_inv (writeSum_inv hs _)
  | getcrc => exact respondWith_inv hs _
  | getbytesBe => exact respondWith_inv hs _
  | getbytesLe => exact respondWith_inv hs _

theorem exec_inv {i : Instr} {s t : State} (hs : s.Inv) (h : exec i s = .next t) : t.Inv := by
  obtain ⟨-, rfl⟩ | ⟨-, -, rfl⟩ | ⟨-, -, rfl⟩ | ⟨-, rfl⟩ := exec_cases h
  · exact readyEffect_inv i hs
  · exact readyEffect_inv i hs
  · exact raiseFault_inv hs.cells _
  · exact hs

theorem step_inv {s t : State} (hs : s.Inv) (h : step s = .next t) : t.Inv := by
  obtain ⟨-, rfl⟩ | ⟨_, -, rfl⟩ | ⟨_, _, -, -, rfl⟩ | ⟨r, _, _, -, -, -, rfl⟩ | ⟨r, _, _, -, -, -, hexec⟩ :=
    step_cases h
  · exact hs
  · exact powerOnReset_inv _
  · exact dropEvent_inv hs
  · exact raiseFault_inv (sample_inv (dropEvent_inv hs) r).cells _
  · exact exec_inv (sample_inv (dropEvent_inv hs) r) hexec

/-! ### The reflected range (R39, R152) -/

theorem narrow_le (w : Nat) (v : Word) : (narrow w v).toNat ≤ v.toNat := by
  rw [narrow, BitVec.toNat_setWidth, BitVec.toNat_setWidth]
  exact (Nat.mod_le _ _).trans (Nat.mod_le _ _)

/-- Rule b keeps `bits` bits: the shift brings nothing in and the table word fits. -/
theorem ruleB_lt_bits {s : State} (hs : s.Configured) (ht : s.byTable = true) (hr : s.reflect = true)
    (hp : s.poly.toNat < 2 ^ s.bits.toNat) (hsum : s.sum.toNat < 2 ^ s.bits.toNat) (byte : Byte) :
    (ruleB byte s).toNat < 2 ^ s.bits.toNat := by
  refine xor_lt (ushiftRight_lt hsum 8) ?_
  rw [hs.tblWord ht, if_pos hr]
  exact reflectedWord_lt (hs.aligned ht).2 hs.bitsLe hp (BitVec.isLt _)

theorem readyEffect_reflectedInRange (i : Instr) {s : State} (hinv : s.Inv) (hs : s.ReflectedInRange) :
    (readyEffect i s).ReflectedInRange := by
  cases i with
  | create reorder reflect bits =>
    obtain ⟨hpos, hle, h⟩ | ⟨-, h⟩ := createEffect_cases reorder reflect bits s
    · rw [readyEffect, h]
      intro _ _ hr _
      have hc := configure_configured reorder reflect s hpos hle
      rw [configure_reflect] at hr
      rw [configure_sum, seedOf, if_pos hr]
      exact reflectBits_highBit_lt hc _
    · rw [readyEffect, h]
      nofun
  | digest byte =>
    intro hready ht hr hp
    refine lt_of_le_of_lt (narrow_le _ _) ?_
    rw [digestSum_reflectedTable hinv hready ht hr]
    exact ruleB_lt_bits (hinv.ready hready) ht hr hp (hs hready ht hr hp) byte
  | reset =>
    intro hready _ hr _
    have hreflect : s.reflect = true := hr
    refine lt_of_le_of_lt (narrow_le _ _) ?_
    rw [State.seed, seedOf, if_pos hreflect]
    exact reflectBits_highBit_lt (hinv.ready hready) _
  | _ => exact hs

theorem exec_reflectedInRange {i : Instr} {s t : State} (hinv : s.Inv) (hs : s.ReflectedInRange)
    (h : exec i s = .next t) : t.ReflectedInRange := by
  obtain ⟨-, rfl⟩ | ⟨-, -, rfl⟩ | ⟨-, -, rfl⟩ | ⟨-, rfl⟩ := exec_cases h
  · exact readyEffect_reflectedInRange i hinv hs
  · exact readyEffect_reflectedInRange i hinv hs
  · nofun
  · exact hs

theorem step_reflectedInRange {s t : State} (hinv : s.Inv) (hs : s.ReflectedInRange) (h : step s = .next t) :
    t.ReflectedInRange := by
  obtain ⟨-, rfl⟩ | ⟨_, -, rfl⟩ | ⟨_, _, -, -, rfl⟩ | ⟨r, _, _, -, -, -, rfl⟩ | ⟨r, _, _, -, -, -, hexec⟩ :=
    step_cases h
  · exact hs
  · nofun
  · exact hs
  · nofun
  · exact exec_reflectedInRange (sample_inv (dropEvent_inv hinv) r) hs hexec

end Sys2Proof.Machine
end

section
/-! ### The obligations on the invariants -/

open Sys2Proof Sys2Proof.Machine

/-- Settles O34: the register has no bits above the byte. -/
theorem ruleAIsRulesBAndCAtEightBits : Obligations.RuleAIsRulesBAndCAtEightBits := by
  intro s byte hinv hs h8
  refine ⟨ruleB_eq_ruleA hinv hs h8 byte, ?_⟩
  rw [ruleC_eq_ruleA (hinv.ready hs) h8, narrow_of_lt _ _ (ruleA_lt hinv.cells byte)]

/-- Settles O54: every register of `State.reset` is 0 and no word is listed. -/
theorem resetMeetsTheInvariants : Obligations.ResetMeetsTheInvariants :=
  ⟨⟨⟨by decide, by decide, by decide, by decide, by decide, by decide, reset_tbl_wf⟩, nofun⟩, ⟨nofun, rfl⟩, nofun⟩

/-- Settles O55: each effect keeps it, and an accepted CREATE establishes it. -/
theorem stepKeepsTheInvariant : Obligations.StepKeepsTheInvariant := fun _ _ => step_inv

/-- Settles O56: the seed is a reflection, and rule b stays in range. -/
theorem stepKeepsTheReflectedRange : Obligations.StepKeepsTheReflectedRange := fun _ _ => step_reflectedInRange

end

section
/-! PROOFS. DIGEST, the seed and the raw value of a configured engine on the low `m` bits, `bits ≤ m ≤ W`: they are
those of Safety/WidthIndexed.lean over `BitVec m`. -/

namespace Sys2Proof.Machine

theorem setWidth_ushiftRight_of_lt {m : Nat} {v : Word} (hv : v.toNat < 2 ^ m) (k : Nat) :
    (v >>> k).setWidth m = v.setWidth m >>> k := by
  refine BitVec.eq_of_toNat_eq ?_
  have hk : v.toNat >>> k < 2 ^ m := lt_of_le_of_lt (Nat.shiftRight_le _ _) hv
  rw [BitVec.toNat_setWidth, BitVec.toNat_ushiftRight, BitVec.toNat_ushiftRight, BitVec.toNat_setWidth,
    Nat.mod_eq_of_lt hk, Nat.mod_eq_of_lt hv]

section
variable {s : State} {m : Nat} (hc : s.Configured) (hn : s.bits.toNat ≤ m) (hm : m ≤ s.width)
include hc hn hm

/-- The index of rule c comes from the significant bits of `sum`. -/
theorem setWidth_ruleC_read (ht : s.byTable = true) (byte : Byte) :
    (ruleC byte s).setWidth m = (s.sum.setWidth m <<< 8) ^^^
      (s.tblWord ((s.sum.setWidth m >>> (s.bits.toNat - 8)).setWidth 8 ^^^ byte)).setWidth m := by
  have h8 := (hc.aligned ht).2
  have hindex : (s.sum >>> (s.bits.toNat - 8)).setWidth 8 =
      (s.sum.setWidth m >>> (s.bits.toNat - 8)).setWidth 8 := by
    refine BitVec.eq_of_getLsbD_eq fun k hk => ?_
    have hin : s.bits.toNat - 8 + k < m := by omega
    simp only [BitVec.getLsbD_setWidth, BitVec.getLsbD_ushiftRight, hin, decide_true, Bool.true_and]
  rw [ruleC, BitVec.setWidth_xor, setWidth_shiftLeft hm (width_le s), hindex]

theorem setWidth_ruleC (ht : s.byTable = true) (hr : s.reflect = false) (byte : Byte) :
    (ruleC byte s).setWidth m = WidthIndexed.digest s.bits.toNat false (s.poly.setWidth m) (s.sum.setWidth m) byte := by
  rw [setWidth_ruleC_read hc hn hm ht, hc.tblWord ht, hr, if_neg nofun,
    setWidth_forwardWord hc.bitsPos hn hm (width_le s), WidthIndexed.digest, if_pos (hc.aligned ht).1, if_neg nofun]

theorem setWidth_ruleB (ht : s.byTable = true) (hr : s.reflect = true) (hsum : s.sum.toNat < 2 ^ m)
    (hp : s.poly.toNat < 2 ^ m) (byte : Byte) :
    (ruleB byte s).setWidth m = WidthIndexed.digest s.bits.toNat true (s.poly.setWidth m) (s.sum.setWidth m) byte := by
  have h8 : 8 ≤ m := (hc.aligned ht).2.trans hn
  have hm64 : m ≤ 64 := hm.trans (width_le s)
  rw [ruleB, BitVec.setWidth_xor, setWidth_ushiftRight_of_lt hsum, hc.tblWord ht, if_pos hr,
    reflectedWord_eq h8 hm64 s.bits.toNat hp, BitVec.setWidth_setWidth_of_le _ hm64, BitVec.setWidth_eq,
    WidthIndexed.digest, if_pos (hc.aligned ht).1, if_pos rfl, BitVec.setWidth_setWidth_of_le _ h8]

theorem setWidth_ruleD (ht : s.byTable = false) (byte : Byte) :
    (ruleD byte s).setWidth m =
      WidthIndexed.digest s.bits.toNat s.reflect (s.poly.setWidth m) (s.sum.setWidth m) byte := by
  have hunaligned : s.bits.toNat % 8 ≠ 0 := beq_eq_false_iff_ne.mp (hc.byTable.symm.trans ht)
  rw [ruleD, hc.highBit, setWidth_bitSerial hc.bitsPos hn hm (width_le s), reflectByte_eq_reverse, WidthIndexed.digest,
    if_neg hunaligned]

theorem setWidth_reflectBits_highBit (v : Word) :
    (reflectBits s.highBit v).setWidth m = WidthIndexed.reverseLow s.bits.toNat (v.setWidth m) := by
  rw [hc.highBit]
  exact setWidth_reflectBits hc.bitsPos hn hm (width_le s) v

theorem setWidth_seed :
    s.seed.setWidth m = WidthIndexed.seed s.bits.toNat s.reflect (s.initial.setWidth m) := by
  rw [State.seed, seedOf, WidthIndexed.seed, ← setWidth_reflectBits_highBit hc hn hm]
  cases s.reflect <;> rfl

theorem setWidth_rawValue :
    s.rawValue.setWidth m =
      WidthIndexed.rawValue s.bits.toNat s.reflect (s.sum.setWidth m) (s.finalXor.setWidth m) := by
  have hturned : turnedAtRead s.byTable s.reflect = true ↔ s.bits.toNat % 8 ≠ 0 ∧ s.reflect = true := by
    simp [turnedAtRead, hc.byTable]
  rw [State.rawValue, State.turnedSum, if_congr hturned rfl rfl, hc.mask, BitVec.setWidth_and, BitVec.setWidth_xor,
    BitVec.setWidth_ofNat_of_le (hm.trans (width_le s)), apply_ite (BitVec.setWidth m),
    setWidth_reflectBits_highBit hc hn hm, WidthIndexed.rawValue]

end

/-- DIGEST on the low `m` bits; in reflected table mode `sum` and `poly` must have no others. -/
theorem setWidth_digestSum {s : State} {m : Nat} (hinv : s.Inv) (hs : s.state = .ready) (hn : s.bits.toNat ≤ m)
    (hm : m ≤ s.width)
    (hrange : s.byTable = true → s.reflect = true → s.sum.toNat < 2 ^ m ∧ s.poly.toNat < 2 ^ m) (byte : Byte) :
    (digestSum byte s).setWidth m =
      WidthIndexed.digest s.bits.toNat s.reflect (s.poly.setWidth m) (s.sum.setWidth m) byte := by
  have hc := hinv.ready hs
  cases ht : s.byTable with
  | false => rw [digestSum_ruleD byte ht, setWidth_ruleD hc hn hm ht]
  | true =>
    cases hr : s.reflect with
    | false =>
      rw [digestSum_forwardTable hc ht hr]
      exact setWidth_ruleC hc hn hm ht hr byte
    | true =>
      obtain ⟨hsum, hp⟩ := hrange ht hr
      rw [digestSum_reflectedTable hinv hs ht hr]
      exact setWidth_ruleB hc hn hm ht hr hsum hp byte

/-! ### Folding the one-byte effect over a byte sequence -/

theorem digestEffect_inv {s : State} (hinv : s.Inv) (byte : Byte) : (digestEffect byte s).Inv :=
  readyEffect_inv (.digest byte) hinv

theorem setWidth_digestEffect_sum {s : State} {m : Nat} (hm : m ≤ s.width) (byte : Byte) :
    (digestEffect byte s).sum.setWidth m = (digestSum byte s).setWidth m := setWidth_narrow hm _

/-- Over a byte sequence DIGEST folds the engine of Safety/WidthIndexed.lean at the CRC's own width, for every
configuration with, in reflected table mode, an in-domain polynomial and register. -/
theorem setWidth_foldl_digestEffect (bytes : List Byte) : ∀ {s : State} {n : Nat} {p : BitVec n} {reflect : Bool},
    s.Inv → s.state = .ready → s.bits.toNat = n → s.poly.setWidth n = p → s.reflect = reflect → s.ReflectedInRange →
    (s.byTable = true → s.reflect = true → s.poly.toNat < 2 ^ s.bits.toNat) →
    (bytes.foldl (fun u b => digestEffect b u) s).sum.setWidth n =
      bytes.foldl (fun v b => WidthIndexed.digest n reflect p v b) (s.sum.setWidth n) := by
  induction bytes with
  | nil => exact fun _ _ _ _ _ _ _ => rfl
  | cons b rest ih =>
    rintro s _ _ _ hinv hs rfl rfl rfl hrange hp
    have hm := bits_le_width (hinv.ready hs)
    have hstep := (setWidth_digestEffect_sum hm b).trans (setWidth_digestSum hinv hs le_rfl hm
      (fun ht hr => ⟨hrange hs ht hr (hp ht hr), hp ht hr⟩) b)
    rw [List.foldl_cons, List.foldl_cons, ← hstep]
    exact ih (s := digestEffect b s) (digestEffect_inv hinv b) hs rfl rfl rfl
      (readyEffect_reflectedInRange (.digest b) hinv hrange) hp

end Sys2Proof.Machine
end

section
/-! PROOFS. Byte sequences (spec/43_digest.md): the events of a sequence of DIGEST commands, and the table rules against
the bit-serial rule at the CRC's own width. -/

namespace Sys2Proof.WidthIndexed

theorem reverseLow_self {n : Nat} (v : BitVec n) : reverseLow n v = v.reverse := by
  rw [reverseLow, Nat.sub_self, BitVec.ushiftRight_zero]

/-- At the CRC's own width the forward table is the bit-serial rule (R160). -/
theorem digest_forward_self {n : Nat} (h8 : 8 ≤ n) (haligned : n % 8 = 0) (p v : BitVec n) (byte : Byte) :
    digest n false p v byte = bitSerial n p v byte := by
  rw [digest, if_pos haligned, if_neg nofun, forwardTable_eq_bitSerial h8]

/-- At the CRC's own width the reflected table is the bit-serial rule read from the other end (R160). -/
theorem digest_reflected_self {n : Nat} (h8 : 8 ≤ n) (haligned : n % 8 = 0) (p v : BitVec n) (byte : Byte) :
    digest n true p v.reverse byte = (bitSerial n p.reverse v byte.reverse).reverse := by
  rw [← reflectedTable_eq_bitSerial h8, digest, if_pos haligned, if_pos rfl, BitVec.reverse_reverse_eq]

end Sys2Proof.WidthIndexed

namespace Sys2Proof.Machine

/-! ### The events of a byte sequence (R156) -/

theorem presentAll_digestBytes_cons (buses : Request) (b : Byte) (bytes : List Byte) :
    presentAll buses (digestBytes (b :: bytes)) =
      .command { buses with cmd := encode (.digest b) } :: presentAll buses (digestBytes bytes) := rfl

theorem step_digest {s : State} {buses : Request} {b : Byte} {rest : List HostEvent} (hs : s.state = .ready)
    (he : s.events = .command { buses with cmd := encode (.digest b) } :: rest) :
    step s = .next (digestEffect b (s.dropEvent.sample { buses with cmd := encode (.digest b) })) := by
  rw [step_command (by simp [hs]) he (decode_encode _)]
  exact exec_ready (.digest b) hs

/-- Accepting an event and digesting do not disturb each other. -/
theorem foldl_digestEffect_accept (bytes : List Byte) (s : State) (r : Request) :
    bytes.foldl (fun u b => digestEffect b u) (s.dropEvent.sample r) =
      (bytes.foldl (fun u b => digestEffect b u) s).dropEvent.sample r :=
  List.foldl_hom (fun u : State => u.dropEvent.sample r) fun _ _ => rfl

/-! ### The range of the register in reflected table mode -/

theorem foldl_digestEffect_sum_lt (bytes : List Byte) : ∀ {s : State}, s.Inv → s.state = .ready → s.byTable = true →
    s.reflect = true → s.poly.toNat < 2 ^ s.bits.toNat → s.sum.toNat < 2 ^ s.bits.toNat →
    (bytes.foldl (fun u b => digestEffect b u) s).sum.toNat < 2 ^ s.bits.toNat := by
  induction bytes with
  | nil => exact fun _ _ _ _ _ hsum => hsum
  | cons b rest ih =>
    intro s hinv hs ht hr hp hsum
    have hnext : (digestEffect b s).sum.toNat < 2 ^ s.bits.toNat :=
      readyEffect_reflectedInRange (.digest b) hinv (fun _ _ _ _ => hsum) hs ht hr hp
    exact ih (s := digestEffect b s) (digestEffect_inv hinv b) hs ht hr hp hnext

/-! ### The two forms of the bit-serial register (R160) -/

/-- The bit-serial rule over a byte sequence on the significant bits. -/
theorem setWidth_foldl_bitSerial {s : State} (hc : s.Configured) (p d : Word) (turn : Byte → Byte) (bytes : List Byte) :
    (bytes.foldl (fun v b => bitSerial s.width s.highBit p (turn b) v) d).setWidth s.bits.toNat =
      bytes.foldl (fun v b => WidthIndexed.bitSerial s.bits.toNat (p.setWidth _) v (turn b)) (d.setWidth _) := by
  refine (List.foldl_hom (BitVec.setWidth s.bits.toNat) fun v b => ?_).symm
  rw [hc.highBit, setWidth_bitSerial hc.bitsPos le_rfl (bits_le_width hc) (width_le s)]

theorem setWidth_reflectBits_self {s : State} (hc : s.Configured) (v : Word) :
    (reflectBits s.highBit v).setWidth s.bits.toNat = (v.setWidth s.bits.toNat).reverse := by
  rw [setWidth_reflectBits_highBit hc le_rfl (bits_le_width hc), WidthIndexed.reverseLow_self]

/-- Reflecting twice leaves the significant bits. -/
theorem reflectBits_highBit_twice {s : State} (hc : s.Configured) (v : Word) :
    reflectBits s.highBit (reflectBits s.highBit v) = v &&& s.mask := by
  refine BitVec.eq_of_toNat_eq ?_
  have hmask : (BitVec.ofNat 64 (2 ^ s.bits.toNat - 1)).toNat = 2 ^ s.bits.toNat - 1 := by
    have hpow : 2 ^ s.bits.toNat ≤ 2 ^ 64 := Nat.pow_le_pow_right (by decide) hc.bitsLe
    have hone := Nat.one_le_two_pow (n := s.bits.toNat)
    exact Nat.mod_eq_of_lt (by omega)
  rw [hc.highBit, hc.mask, ofNat_two_pow, reflectBits_reflectBits_toNat hc.bitsPos hc.bitsLe, BitVec.toNat_and, hmask,
    Nat.and_two_pow_sub_one_eq_mod]

/-- The raw value directly after a RESET is made of the seed. -/
theorem resetEffect_rawValue {s : State} (hinv : s.Inv) (hs : s.state = .ready) :
    (resetEffect s).rawValue =
      ((if turnedAtRead s.byTable s.reflect then reflectBits s.highBit s.seed else s.seed) ^^^ s.finalXor)
        &&& s.mask := by
  have hsum : (resetEffect s).sum = s.seed := narrow_of_lt _ _ (seed_lt hinv.cells (hinv.ready hs))
  rw [State.rawValue, State.turnedSum, hsum]
  rfl

end Sys2Proof.Machine
end

section
/-! ### The obligations on byte sequences -/

open Sys2Proof Sys2Proof.Machine

/-- Settles O35: by induction on the bytes, one accepted DIGEST a step. -/
theorem byteSequenceIsDigestedInOrder : Obligations.ByteSequenceIsDigestedInOrder := by
  intro s bytes buses rest hs he
  induction bytes generalizing s with
  | nil => exact ⟨s, rfl, hs, he, State.SameConfig.refl s, rfl, rfl⟩
  | cons b bytes ih =>
    rw [presentAll_digestBytes_cons, List.cons_append] at he
    obtain ⟨r, hr⟩ : ∃ r : Request, r = { buses with cmd := encode (.digest b) } := ⟨_, rfl⟩
    have hstep := step_digest hs he
    rw [← hr] at hstep
    obtain ⟨t, hrun, hready, hrest, hconfig, hresponses, hsum⟩ :=
      ih (digestEffect b (s.dropEvent.sample r)) hs (congrArg List.tail he)
    have haccept : s.SameConfig (digestEffect b (s.dropEvent.sample r)) :=
      (sameConfig_accept s r).trans (sameConfig_readyEffect (i := .digest b) rfl _)
    refine ⟨t, (runSteps_step _ hstep).trans hrun, hready, hrest, haccept.trans hconfig, hresponses, ?_⟩
    rw [hsum, ← List.foldl_cons (f := fun u b => digestEffect b u), foldl_digestEffect_accept]
    rfl

/-- Settles O36: on the significant bits both are the bit-serial rule. -/
theorem forwardTableAgreesWithBitSerial : Obligations.ForwardTableAgreesWithBitSerial := by
  intro s bytes hinv hs ht hr
  have hc := hinv.ready hs
  obtain ⟨haligned, h8⟩ := hc.aligned ht
  have hnotReflected : s.reflect ≠ true := by simp [hr]
  rw [hc.mask, and_mask_eq_iff hc.bitsLe,
    setWidth_foldl_digestEffect bytes hinv hs rfl rfl hr (fun _ _ h => absurd h hnotReflected)
      (fun _ h => absurd h hnotReflected)]
  simp only [WidthIndexed.digest_forward_self h8 haligned]
  exact (setWidth_foldl_bitSerial hc s.poly s.sum id bytes).symm

/-- Settles O37: on the significant bits the table register runs on the reversed values, and it has no others. -/
theorem reflectedTableMirrorsBitSerial : Obligations.ReflectedTableMirrorsBitSerial := by
  intro s d bytes hinv hs ht hr hp hd
  have hc := hinv.ready hs
  obtain ⟨haligned, h8⟩ := hc.aligned ht
  have hsum : s.sum.toNat < 2 ^ s.bits.toNat := hd ▸ reflectBits_highBit_lt hc d
  have hstart : s.sum.setWidth s.bits.toNat = (d.setWidth s.bits.toNat).reverse := by
    rw [← hd, setWidth_reflectBits_self hc]
  refine setWidth_inj_of_lt (foldl_digestEffect_sum_lt bytes hinv hs ht hr hp hsum) (reflectBits_highBit_lt hc _) ?_
  rw [setWidth_foldl_digestEffect bytes hinv hs rfl rfl hr (fun _ _ _ _ => hsum) (fun _ _ => hp), hstart,
    setWidth_reflectBits_self hc, setWidth_foldl_bitSerial hc _ d reflectByte, setWidth_reflectBits_self hc]
  refine List.foldl_hom BitVec.reverse fun v b => ?_
  rw [WidthIndexed.digest_reflected_self h8 haligned, reflectByte_eq_reverse]

/-- Settles O38: the comparison on the low `m` bits, at `m = W`. -/
theorem cellsRefineTheWidthIndexedEngine : Obligations.CellsRefineTheWidthIndexedEngine := by
  intro s byte hinv hs
  have hc := hinv.ready hs
  have hn := bits_le_width hc
  refine ⟨⟨_, exec_ready (.digest byte) hs, narrow_lt _ _, ?_⟩, ⟨_, exec_ready .reset hs, narrow_lt _ _, ?_⟩,
    lt_two_pow_of_le (rawValue_lt hc) hn, setWidth_rawValue hc hn le_rfl⟩
  · exact (setWidth_narrow le_rfl _).trans
      (setWidth_digestSum hinv hs hn le_rfl (fun _ _ => ⟨hinv.cells.sum, hinv.cells.poly⟩) byte)
  · exact (setWidth_narrow le_rfl _).trans (setWidth_seed hc hn le_rfl)

/-- Settles O48: the register holds the seed, which the read turns back in bitwise reflected mode. -/
theorem valueOfTheEmptyMessage : Obligations.ValueOfTheEmptyMessage := by
  intro s t u hinv hs hreorder hreset hread
  have hc := hinv.ready hs
  cases (exec_ready .reset hs).symm.trans hreset
  cases (exec_getcrc_ready (s := resetEffect s) hs).symm.trans hread
  refine ⟨_, rfl, ?_⟩
  have hplain : (resetEffect s).crcValue = (resetEffect s).rawValue := crcValue_plain (s := resetEffect s) hreorder
  refine (hplain.trans (resetEffect_rawValue hinv hs)).trans ?_
  rw [State.seed, seedOf]
  cases hr : s.reflect with
  | false => simp [turnedAtRead]
  | true =>
    cases ht : s.byTable with
    | false => simp [turnedAtRead, reflectBits_highBit_twice hc]
    | true => simp [turnedAtRead]

end

section
/-! PROOFS. What a CREATE forgets (spec/42_create.md R138) and what a RESET restores (spec/44_reset_cmd.md R171). -/

namespace Sys2Proof.Machine

/-! ### Configurations from the same port signals -/

section
variable (reorder reflect : Bool) (bits : Byte) {s t : State} (hport : t.port = s.port)
include hport

theorem configure_sameRegisters :
    (configure reorder reflect bits s).SameRegisters (configure reorder reflect bits t) where
  sum := by simp only [configure_sum, hport]
  poly := by simp only [configure_poly, hport]
  initial := by simp only [configure_initial, hport]
  finalXor := by simp only [configure_finalXor, hport]
  highBit := rfl
  mask := rfl
  bits := rfl
  byTable := rfl
  reflect := rfl
  reorder := rfl
  wsel := rfl

theorem configure_tblWord_congr (ht : byTableOf bits.toNat = true) (i : Byte) :
    (configure reorder reflect bits t).tblWord i = (configure reorder reflect bits s).tblWord i := by
  have haligned := (byTableOf_iff _).mp ht
  rw [configure_tblWord reorder reflect t haligned, configure_tblWord reorder reflect s haligned, hport]

end

/-! ### Commands after a CREATE -/

/-- Commands other than CREATE keep READY and the configuration. -/
theorem execAll_ready (is : List Instr) : ∀ {s t : State}, s.state = .ready → (∀ i ∈ is, i.isCreate = false) →
    execAll is s = .next t → t.state = .ready ∧ s.SameConfig t := by
  induction is with
  | nil =>
    intro s t hs _ h
    cases h
    exact ⟨hs, State.SameConfig.refl s⟩
  | cons i rest ih =>
    intro s t hs hall h
    have hi : i.isCreate = false := hall i List.mem_cons_self
    simp only [execAll, exec_ready i hs] at h
    obtain ⟨hready, hconfig⟩ := ih ((readyEffect_status hi s).1.trans hs)
      (fun j hj => hall j (List.mem_cons_of_mem i hj)) h
    exact ⟨hready, (sameConfig_readyEffect hi s).trans hconfig⟩

theorem seed_of_sameConfig {s t : State} (h : s.SameConfig t) : t.seed = s.seed := by
  rw [State.seed, h.reflect, h.highBit, h.initial, State.seed]

theorem width_of_sameConfig {s t : State} (h : s.SameConfig t) : t.width = s.width := by
  rw [State.width, h.wsel, State.width]

end Sys2Proof.Machine
end

section
/-! ### The obligations on CREATE and RESET -/

open Sys2Proof Sys2Proof.Machine

/-- Settles O27: the configuration is made of the operands and the port signals. -/
theorem createForgetsTheEarlierConfiguration : Obligations.CreateForgetsTheEarlierConfiguration := by
  intro s s' t t' reorder reflect bits hf hf' hpos hle hport h h'
  cases (exec_create_in_range reorder reflect hf hpos hle).symm.trans h
  cases (exec_create_in_range reorder reflect hf' hpos hle).symm.trans h'
  exact ⟨configure_sameRegisters reorder reflect bits hport, rfl, configure_tblWord_congr reorder reflect bits hport⟩

/-- Settles O29: the state after the power-on reset and `State.reset` have the same port signals at the CREATE. -/
theorem startUpForgetsEverything : Obligations.StartUpForgetsEverything := by
  intro s r rest reorder reflect bits he hd hpos hle
  obtain ⟨p, hp⟩ : ∃ p, p = powerOnReset s.dropEvent := ⟨_, rfl⟩
  have hstate : p.state = .unconfigured := by rw [hp, powerOnReset_state]
  have hevents : p.events = .command r :: rest := by rw [hp, powerOnReset_events, dropEvent_events, he, List.tail_cons]
  have hcode : p.faultCode = .noFault := by rw [hp, powerOnReset_faultCode]
  have hf : p.state ≠ .fault := by simp [hstate]
  have hcreate : step p = .next (configure reorder reflect bits (p.dropEvent.sample r)) := by
    rw [step_command hf hevents hd]
    exact exec_create_in_range reorder reflect hf hpos hle
  have hrun : runSteps 2 s = .next (configure reorder reflect bits (p.dropEvent.sample r)) := by
    rw [runSteps_step _ (step_por he), ← hp, runSteps_step _ hcreate]
    rfl
  refine ⟨_, _, hrun, exec_create_in_range reorder reflect (by nofun) hpos hle, rfl, hcode, ?_,
    configure_sameRegisters reorder reflect bits rfl, configure_tblWord_congr reorder reflect bits rfl⟩
  rw [configure_events, sample_events, dropEvent_events, hevents, List.tail_cons]

/-- Settles O40: the seed that RESET writes is made of the configuration, which the commands keep. -/
theorem resetEquivalence : Obligations.ResetEquivalence := by
  intro s t u reorder reflect bits is hf hpos hle hcreate hall hrun
  cases (exec_create_in_range reorder reflect hf hpos hle).symm.trans hcreate
  have hinv := configure_inv reorder reflect s hpos hle
  obtain ⟨hready, hconfig⟩ := execAll_ready is (configure_state reorder reflect bits s) hall hrun
  refine ⟨resetEffect u, exec_ready .reset hready, hready, ?_,
    hconfig.trans (sameConfig_readyEffect (i := .reset) rfl u)⟩
  have hwritten : (resetEffect u).sum = narrow u.width u.seed := rfl
  rw [hwritten, seed_of_sameConfig hconfig, width_of_sameConfig hconfig,
    narrow_of_lt _ _ (seed_lt hinv.cells (hinv.ready rfl))]
  rfl

end

section
/-! PROOFS. What no run shows (spec/10_state.md R39, R41): states that agree on the significant state give, step by
step, states that agree on it, and the same responses. -/

namespace Sys2Proof.Machine

/-! ### Significant state -/

/-- Agreement under the mask is agreement of the low `bits` bits. -/
theorem State.Configured.and_mask_eq_iff {s : State} (hs : s.Configured) {u v : Word} :
    u &&& s.mask = v &&& s.mask ↔ u.setWidth s.bits.toNat = v.setWidth s.bits.toNat := by
  rw [hs.mask]
  exact Machine.and_mask_eq_iff hs.bitsLe u v

theorem State.SameRegisters.sameSignificant {s t : State} (h : s.SameRegisters t)
    (htbl : s.byTable = true → ∀ i, t.tblWord i = s.tblWord i) : s.SameSignificant t :=
  ⟨h.bits, h.byTable, h.reflect, h.reorder, h.wsel, h.highBit, h.mask, by rw [h.initial], by rw [h.finalXor],
    by rw [h.sum], fun _ _ => h.sum, fun _ => by rw [h.poly], htbl⟩

theorem State.SameSignificant.width {s t : State} (h : s.SameSignificant t) : t.width = s.width := by
  rw [State.width, h.wsel, State.width]

/-- Writing `sum` keeps the agreement when the values written agree. -/
theorem writeSum_sameSignificant {s t : State} (hs : s.Configured) (h : s.SameSignificant t) {u v : Word}
    (hlow : v.setWidth s.bits.toNat = u.setWidth s.bits.toNat)
    (hexact : s.byTable = true → s.reflect = true → v = u) : (s.writeSum u).SameSignificant (t.writeSum v) where
  bits := h.bits
  byTable := h.byTable
  reflect := h.reflect
  reorder := h.reorder
  wsel := h.wsel
  highBit := h.highBit
  mask := h.mask
  initial := h.initial
  finalXor := h.finalXor
  poly := h.poly
  tbl := h.tbl
  sum := hs.and_mask_eq_iff.mpr <| by
    have hm := bits_le_width hs
    rw [writeSum_sum, writeSum_sum, h.width, setWidth_narrow hm, setWidth_narrow hm, hlow]
  sumReflectedTable htable hreflect := by rw [writeSum_sum, writeSum_sum, h.width, hexact htable hreflect]

/-! ### What a command computes from agreeing states -/

section
variable {s t : State} (hs : s.Inv) (ht : t.Inv) (hready : s.state = .ready) (hready' : t.state = .ready)
  (h : s.SameSignificant t)
include hs ht hready hready' h

/-- In reflected table mode `sum` agrees on every bit (R39's exception), and so does what DIGEST makes of it. -/
theorem digestSum_reflectedTable_congr (htable : s.byTable = true) (hreflect : s.reflect = true) (byte : Byte) :
    digestSum byte t = digestSum byte s := by
  rw [digestSum_reflectedTable hs hready htable hreflect,
    digestSum_reflectedTable ht hready' (h.byTable.trans htable) (h.reflect.trans hreflect), ruleB, ruleB,
    h.sumReflectedTable htable hreflect, h.tbl htable]

theorem setWidth_digestSum_congr (byte : Byte) :
    (digestSum byte t).setWidth s.bits.toNat = (digestSum byte s).setWidth s.bits.toNat := by
  have hc := hs.ready hready
  have hc' := ht.ready hready'
  have hn' : t.bits.toNat ≤ s.bits.toNat := by rw [h.bits]
  have hm := bits_le_width hc
  have hm' : s.bits.toNat ≤ t.width := h.width ▸ hm
  have hsum : t.sum.setWidth s.bits.toNat = s.sum.setWidth s.bits.toNat := hc.and_mask_eq_iff.mp h.sum
  cases htable : s.byTable with
  | false =>
    have htable' : t.byTable = false := h.byTable.trans htable
    rw [digestSum_ruleD byte htable, digestSum_ruleD byte htable', setWidth_ruleD hc le_rfl hm htable,
      setWidth_ruleD hc' hn' hm' htable', hsum, hc.and_mask_eq_iff.mp (h.poly htable), h.bits, h.reflect]
  | true =>
    have htable' : t.byTable = true := h.byTable.trans htable
    cases hreflect : s.reflect with
    | false =>
      rw [digestSum_forwardTable hc htable hreflect, digestSum_forwardTable hc' htable' (h.reflect.trans hreflect),
        setWidth_ruleC_read hc le_rfl hm htable, setWidth_ruleC_read hc' hn' hm' htable', hsum, h.bits, h.tbl htable]
    | true => rw [digestSum_reflectedTable_congr hs ht hready hready' h htable hreflect]

theorem setWidth_seed_congr : t.seed.setWidth s.bits.toNat = s.seed.setWidth s.bits.toNat := by
  have hc := hs.ready hready
  have hn' : t.bits.toNat ≤ s.bits.toNat := by rw [h.bits]
  have hm := bits_le_width hc
  rw [setWidth_seed hc le_rfl hm, setWidth_seed (ht.ready hready') hn' (h.width ▸ hm), h.bits, h.reflect,
    hc.and_mask_eq_iff.mp h.initial]

/-- A reflected seed has no bits but the significant ones. -/
theorem seed_congr (hreflect : s.reflect = true) : t.seed = s.seed := by
  have hlt {u : State} (hu : u.Configured) (hr : u.reflect = true) : u.seed.toNat < 2 ^ u.bits.toNat := by
    rw [State.seed, seedOf, if_pos hr]
    exact reflectBits_highBit_lt hu _
  exact setWidth_inj_of_lt (h.bits ▸ hlt (ht.ready hready') (h.reflect.trans hreflect)) (hlt (hs.ready hready) hreflect)
    (setWidth_seed_congr hs ht hready hready' h)

theorem rawValue_congr : t.rawValue = s.rawValue := by
  have hc := hs.ready hready
  have hc' := ht.ready hready'
  have hn' : t.bits.toNat ≤ s.bits.toNat := by rw [h.bits]
  have hm := bits_le_width hc
  refine setWidth_inj_of_lt (h.bits ▸ rawValue_lt hc') (rawValue_lt hc) ?_
  rw [setWidth_rawValue hc le_rfl hm, setWidth_rawValue hc' hn' (h.width ▸ hm), h.bits, h.reflect,
    hc.and_mask_eq_iff.mp h.sum, hc.and_mask_eq_iff.mp h.finalXor]

theorem crcValue_congr : t.crcValue = s.crcValue := by
  rw [State.crcValue, State.crcValue, rawValue_congr hs ht hready hready' h, h.reorder, h.width, h.bits]

theorem outBytes_congr : t.outBytes = s.outBytes := by
  rw [outBytes_eq, outBytes_eq, crcValue_congr hs ht hready hready' h, h.bits]

end

/-! ### States the host cannot tell apart -/

theorem raiseFault_indist {s t : State} (h : s.Indist t) (hport : t.port.cmd = s.port.cmd) (code : FaultCode) :
    (raiseFault code s).Indist (raiseFault code t) :=
  ⟨rfl, rfl, hport, rfl, h.responses, h.events, nofun⟩

theorem powerOnReset_indist {s t : State} (h : s.Indist t) : (powerOnReset s).Indist (powerOnReset t) :=
  ⟨rfl, rfl, rfl, rfl, h.responses, h.events, nofun⟩

theorem dropEvent_indist {s t : State} (h : s.Indist t) : s.dropEvent.Indist t.dropEvent where
  state := h.state
  faultCode := h.faultCode
  faultInfo := h.faultInfo
  rsp := h.rsp
  responses := h.responses
  events := congrArg List.tail h.events
  ready hr := { h.ready hr with }

theorem sample_indist {s t : State} (h : s.Indist t) (r : Request) : (s.sample r).Indist (t.sample r) :=
  { h with ready := fun hr => { h.ready hr with } }

/-- Configured alike, the states agree when their significant states do. -/
theorem configure_indist (reorder reflect : Bool) (bits : Byte) {s t : State} (h : s.Indist t)
    (hsame : (configure reorder reflect bits s).SameSignificant (configure reorder reflect bits t)) :
    (configure reorder reflect bits s).Indist (configure reorder reflect bits t) :=
  ⟨rfl, h.faultCode, h.faultInfo, rfl, h.responses, h.events, fun _ => hsame⟩

theorem createEffect_indist (reorder reflect : Bool) (bits : Byte) {s t : State} (h : s.Indist t)
    (hport : t.port = s.port) :
    (createEffect reorder reflect bits s).Indist (createEffect reorder reflect bits t) := by
  cases hb : bitsInRange bits with
  | true =>
    rw [createEffect_in_range reorder reflect s hb, createEffect_in_range reorder reflect t hb]
    exact configure_indist reorder reflect bits h ((configure_sameRegisters reorder reflect bits hport).sameSignificant
      (configure_tblWord_congr reorder reflect bits hport))
  | false =>
    rw [createEffect_out_of_range reorder reflect s hb, createEffect_out_of_range reorder reflect t hb]
    exact raiseFault_indist h (by rw [hport]) _

theorem writeSum_noResponse_indist {s t : State} (h : s.Indist t) {u v : Word}
    (hsame : (s.writeSum u).SameSignificant (t.writeSum v)) :
    (s.writeSum u).noResponse.Indist (t.writeSum v).noResponse :=
  ⟨h.state, h.faultCode, h.faultInfo, rfl, h.responses, h.events, fun _ => { hsame with }⟩

theorem respondWith_indist {s t : State} (h : s.Indist t) (r : Response) :
    (s.respondWith r).Indist (t.respondWith r) :=
  ⟨h.state, h.faultCode, h.faultInfo, rfl, by rw [respondWith_responses, respondWith_responses, h.responses], h.events,
    fun hr => { h.ready hr with }⟩

/-- The effect of a command in READY. -/
theorem readyEffect_indist (i : Instr) {s t : State} (hs : s.Inv) (ht : t.Inv) (h : s.Indist t)
    (hready : s.state = .ready) (hport : t.port = s.port) : (readyEffect i s).Indist (readyEffect i t) := by
  have hready' : t.state = .ready := h.state.trans hready
  have hsig := h.ready hready
  have hc := hs.ready hready
  cases i with
  | create reorder reflect bits => exact createEffect_indist reorder reflect bits h hport
  | digest byte =>
    exact writeSum_noResponse_indist h (writeSum_sameSignificant hc hsig
      (setWidth_digestSum_congr hs ht hready hready' hsig byte)
      (fun htable hreflect => digestSum_reflectedTable_congr hs ht hready hready' hsig htable hreflect byte))
  | reset =>
    exact writeSum_noResponse_indist h (writeSum_sameSignificant hc hsig
      (setWidth_seed_congr hs ht hready hready' hsig)
      (fun _ hreflect => seed_congr hs ht hready hready' hsig hreflect))
  | getcrc =>
    rw [readyEffect, getcrcEffect, getcrcEffect, crcValue_congr hs ht hready hready' hsig]
    exact respondWith_indist h _
  | getbytesBe =>
    rw [readyEffect, getbytesBeEffect, getbytesBeEffect, outBytes_congr hs ht hready hready' hsig]
    exact respondWith_indist h _
  | getbytesLe =>
    rw [readyEffect, getbytesLeEffect, getbytesLeEffect, outBytes_congr hs ht hready hready' hsig]
    exact respondWith_indist h _

theorem exec_indist (i : Instr) {s t : State} (hs : s.Inv) (ht : t.Inv) (h : s.Indist t) (hport : t.port = s.port) :
    ∃ s' t', exec i s = .next s' ∧ exec i t = .next t' ∧ s'.Indist t' := by
  cases hstate : s.state with
  | ready =>
    exact ⟨_, _, exec_ready i hstate, exec_ready i (h.state.trans hstate), readyEffect_indist i hs ht h hstate hport⟩
  | fault => exact ⟨_, _, exec_fault i hstate, exec_fault i (h.state.trans hstate), h⟩
  | unconfigured =>
    have hstate' := h.state.trans hstate
    cases i with
    | create reorder reflect bits =>
      exact ⟨_, _, exec_create_accepting reorder reflect bits (by simp [hstate]),
        exec_create_accepting reorder reflect bits (by simp [hstate']),
        createEffect_indist reorder reflect bits h hport⟩
    | _ =>
      exact ⟨_, _, exec_unconfigured (by rfl) hstate, exec_unconfigured (by rfl) hstate',
        raiseFault_indist h (by rw [hport]) _⟩

theorem runWord_indist {s t : State} (hs : s.Inv) (ht : t.Inv) (h : s.Indist t) (hport : t.port = s.port) :
    ∃ s' t', runWord s = .next s' ∧ runWord t = .next t' ∧ s'.Indist t' := by
  rw [runWord, runWord, hport]
  cases decode s.port.cmd with
  | command i => exact exec_indist i hs ht h hport
  | illegal why => exact ⟨_, _, rfl, rfl, raiseFault_indist h (by rw [hport]) _⟩

theorem step_indist {s t : State} (hs : s.Inv) (ht : t.Inv) (h : s.Indist t) :
    ∃ s' t', step s = .next s' ∧ step t = .next t' ∧ s'.Indist t' := by
  match he : s.events with
  | [] => exact ⟨s, t, step_idle he, step_idle (h.events.trans he), h⟩
  | .por :: rest => exact ⟨_, _, step_por he, step_por (h.events.trans he), powerOnReset_indist (dropEvent_indist h)⟩
  | .command r :: rest =>
    by_cases hf : s.state = .fault
    · exact ⟨_, _, step_turned_away he hf, step_turned_away (h.events.trans he) (h.state.trans hf), dropEvent_indist h⟩
    · rw [step_accepted he hf, step_accepted (h.events.trans he) (h.state ▸ hf)]
      exact runWord_indist (sample_inv (dropEvent_inv hs) r) (sample_inv (dropEvent_inv ht) r)
        (sample_indist (dropEvent_indist h) r) rfl

theorem runSteps_indist (n : Nat) : ∀ {s t : State}, s.Inv → t.Inv → s.Indist t →
    ∃ s' t', runSteps n s = .next s' ∧ runSteps n t = .next t' ∧ s'.Indist t' := by
  induction n with
  | zero => exact fun {s t} _ _ h => ⟨s, t, rfl, rfl, h⟩
  | succ n ih =>
    intro s t hs ht h
    obtain ⟨s₁, t₁, hstep, hstep', h₁⟩ := step_indist hs ht h
    rw [runSteps_step n hstep, runSteps_step n hstep']
    exact ih (step_inv hs hstep) (step_inv ht hstep') h₁

/-! ### Bus bits outside the domain (R139)

`u` and `v` are words that agree on their low `bits` bits. -/

section
variable {n : Nat} (hpos : 1 ≤ n) (hle : n ≤ 64) {u v : Word} (h : v.setWidth n = u.setWidth n)
include h

include hle in
theorem busOperand_setWidth_congr :
    (busOperand (widthSelect n) v).setWidth n = (busOperand (widthSelect n) u).setWidth n := by
  rw [busOperand, busOperand, setWidth_narrow (le_widthSelect hle), setWidth_narrow (le_widthSelect hle), h]

include hpos hle

theorem reflectBits_highBitOf_congr :
    reflectBits (highBitOf (widthSelect n) n) v = reflectBits (highBitOf (widthSelect n) n) u := by
  rw [highBitOf_eq hpos (le_widthSelect hle) (widthSelect_le n), ofNat_two_pow]
  exact reflectBits_congr hpos hle ((mod_two_pow_eq_iff n v u).mpr h)

/-- The seed, exactly if it is reflected. -/
theorem seedOf_setWidth_congr (reflect : Bool) :
    (seedOf reflect (highBitOf (widthSelect n) n) v).setWidth n =
      (seedOf reflect (highBitOf (widthSelect n) n) u).setWidth n := by
  cases reflect with
  | false => exact h
  | true => exact congrArg _ (reflectBits_highBitOf_congr hpos hle h)

theorem polyRegister_setWidth_congr (byTable reflect : Bool) :
    (polyRegister byTable reflect (highBitOf (widthSelect n) n) v).setWidth n =
      (polyRegister byTable reflect (highBitOf (widthSelect n) n) u).setWidth n := by
  rw [polyRegister, polyRegister, reflectBits_highBitOf_congr hpos hle h]
  split
  · rfl
  · exact h

end

/-- A bus word is used through its low bits (in reflected table mode the polynomial word through its low `W` bits). -/
theorem configure_sameSignificant (reorder reflect : Bool) {bits : Byte} {s t : State} (hpos : 1 ≤ bits.toNat)
    (hle : bits.toNat ≤ 64) (hinit : t.port.pInit.setWidth bits.toNat = s.port.pInit.setWidth bits.toNat)
    (hxor : t.port.pXor.setWidth bits.toNat = s.port.pXor.setWidth bits.toNat)
    (hpoly : t.port.pPoly.setWidth bits.toNat = s.port.pPoly.setWidth bits.toNat)
    (hpolyReflected : bits.toNat % 8 = 0 → reflect = true →
      t.port.pPoly.setWidth (widthSelect bits.toNat) = s.port.pPoly.setWidth (widthSelect bits.toNat)) :
    (configure reorder reflect bits s).SameSignificant (configure reorder reflect bits t) := by
  have hmask {u v : Word} : v.setWidth bits.toNat = u.setWidth bits.toNat →
      v &&& (configure reorder reflect bits s).mask = u &&& (configure reorder reflect bits s).mask :=
    (configure_configured reorder reflect s hpos hle).and_mask_eq_iff.mpr
  have hinit' := busOperand_setWidth_congr hle hinit
  have hpoly' := busOperand_setWidth_congr hle hpoly
  refine ⟨rfl, rfl, rfl, rfl, rfl, rfl, rfl, hmask hinit', hmask (busOperand_setWidth_congr hle hxor),
    hmask (seedOf_setWidth_congr hpos hle hinit' reflect), fun _ hreflect => ?sum,
    fun _ => hmask (polyRegister_setWidth_congr hpos hle hpoly' _ reflect), fun htable i => ?tbl⟩
  case sum =>
    rw [configure_reflect] at hreflect
    rw [configure_sum, configure_sum, hreflect]
    exact reflectBits_highBitOf_congr hpos hle hinit'
  case tbl =>
    have haligned := (byTableOf_iff _).mp htable
    rw [configure_tblWord reorder reflect t haligned, configure_tblWord reorder reflect s haligned]
    cases hreflect : reflect with
    | false => exact forwardWord_congr hpos (le_widthSelect hle) (widthSelect_le _) hpoly' i
    | true =>
      have hbus : busOperand (widthSelect bits.toNat) t.port.pPoly = busOperand (widthSelect bits.toNat) s.port.pPoly :=
        congrArg (BitVec.setWidth 64) (hpolyReflected haligned hreflect)
      rw [hbus]

end Sys2Proof.Machine
end

section
/-! ### The obligations on what no run shows -/

open Sys2Proof Sys2Proof.Machine

/-- Settles O57: each kind of event keeps the agreement. -/
theorem hiddenStateNeverShows : Obligations.HiddenStateNeverShows := fun _ _ => step_indist

/-- Settles O58: the agreement along the run, whose ports and record the statement reads off. -/
theorem runsFromIndistinguishableStatesLookAlike : Obligations.RunsFromIndistinguishableStatesLookAlike := by
  intro n s t hs ht h
  obtain ⟨s', t', hrun, hrun', h'⟩ := runSteps_indist n hs ht h
  exact ⟨s', t', hrun, hrun', h'.responses, congrArg EngineState.code h'.state, congrArg FaultCode.code h'.faultCode,
    h'.faultInfo⟩

/-- Settles O28: CREATE uses each bus word through its low bits. -/
theorem outOfDomainBusBitsNeverShow : Obligations.OutOfDomainBusBitsNeverShow := by
  intro s t t' r r' reorder reflect bits hf hcmd hpos hle hinit hxor hpoly hpolyReflected h h'
  cases (exec_create_in_range reorder reflect (s := { s with port := r }) hf hpos hle).symm.trans h
  cases (exec_create_in_range reorder reflect (s := { s with port := r' }) hf hpos hle).symm.trans h'
  exact ⟨rfl, rfl, rfl, rfl, rfl, rfl, fun _ => configure_sameSignificant reorder reflect hpos hle
    ((mod_two_pow_eq_iff _ _ _).mp hinit) ((mod_two_pow_eq_iff _ _ _).mp hxor) ((mod_two_pow_eq_iff _ _ _).mp hpoly)
    fun haligned hreflect => (mod_two_pow_eq_iff _ _ _).mp (hpolyReflected haligned hreflect)⟩

end

section
/-! PROOFS. The end of a run (R218): a run that is in FAULT, or that a step leads there, does not end well, and a run of
legal commands that begins with a CREATE does. -/

namespace Sys2Proof.Machine

/-! ### Runs that do not end well -/

theorem endedWell_in_fault (n : Nat) {s : State} (hf : s.state = .fault) (hpor : noPor s.events = true) :
    endedWell n s = false := by
  by_cases he : s.events = []
  · rw [endedWell_idle n he, cmdReady_in_fault hf]
  · cases n with
    | zero => exact endedWell_zero he
    | succ n => exact endedWell_of_step_to_fault n (step_in_fault hf hpor) hf

/-- A run ends no better than the run after its first step. -/
theorem endedWell_of_step_ended_badly {s t : State} (n : Nat) (h : step s = .next t) (ht : endedWell n t = false) :
    endedWell (n + 1) s = false := by
  by_cases he : s.events = []
  · cases (step_idle he).symm.trans h
    rw [endedWell_idle _ he, ← endedWell_idle n he, ht]
  · rw [endedWell_step n he h, ht, Bool.and_false]

/-- Once a step has led to FAULT, nothing that follows makes the run end well. -/
theorem endedWell_of_run_to_fault (k : Nat) : ∀ {n : Nat} {s t : State}, k + 1 ≤ n → runSteps (k + 1) s = .next t →
    t.state = .fault → endedWell n s = false := by
  induction k with
  | zero =>
    intro n s t hn hrun ht
    obtain ⟨n, rfl⟩ := Nat.exists_eq_add_of_le' hn
    obtain ⟨u, hu⟩ := step_next s
    rw [runSteps_step _ hu] at hrun
    cases hrun
    exact endedWell_of_step_to_fault n hu ht
  | succ k ih =>
    intro n s t hn hrun ht
    obtain ⟨n, rfl⟩ := Nat.exists_eq_add_of_le' (show 1 ≤ n by omega)
    obtain ⟨u, hu⟩ := step_next s
    rw [runSteps_step _ hu] at hrun
    exact endedWell_of_step_ended_badly n hu (ih (by omega) hrun ht)

/-! ### Runs that end well -/

/-- A command that raises no fault in READY: a legal word, in range if it is a CREATE. -/
def Request.RunsInReady (r : Request) : Prop :=
  ∃ i, decode r.cmd = .command i ∧
    ∀ reorder reflect bits, i = .create reorder reflect bits → 1 ≤ bits.toNat ∧ bits.toNat ≤ 64

/-- A step that takes an accepted command to READY, and then a run that ends well. -/
theorem endedWell_accepted {s t : State} {r : Request} {rest : List HostEvent} (n : Nat)
    (he : s.events = .command r :: rest) (hf : s.state ≠ .fault) (h : step s = .next t) (hready : t.state = .ready)
    (ht : endedWell n t = true) : endedWell (n + 1) s = true := by
  have hin : s.turnsAway = false := by simp [State.turnsAway, he, (cmdReady_iff s).mpr hf]
  have hcmd : t.cmdReady = true := (cmdReady_iff t).mpr (by simp [hready])
  rw [endedWell_step n (by simp [he]) h, hin, hcmd, ht]
  rfl

theorem readyEffect_ready {i : Instr} {s : State} (hs : s.state = .ready)
    (hi : ∀ reorder reflect bits, i = .create reorder reflect bits → 1 ≤ bits.toNat ∧ bits.toNat ≤ 64) :
    (readyEffect i s).state = .ready := by
  cases i with
  | create reorder reflect bits =>
    have hrange := (bitsInRange_iff bits).mpr (hi _ _ _ rfl)
    rw [readyEffect, createEffect_in_range reorder reflect s hrange, configure_state]
  | _ => exact hs

theorem endedWell_from_ready (rest : List Request) : ∀ {s : State}, s.state = .ready →
    s.events = rest.map .command → (∀ r ∈ rest, r.RunsInReady) → endedWell rest.length s = true := by
  induction rest with
  | nil =>
    intro s hs he _
    rw [endedWell_idle _ he, cmdReady_iff, hs]
    nofun
  | cons r rest ih =>
    intro s hs he hall
    have hf : s.state ≠ .fault := by simp [hs]
    obtain ⟨i, hd, hi⟩ := hall r List.mem_cons_self
    have hstep : step s = .next (readyEffect i (s.dropEvent.sample r)) := by
      rw [step_command hf he hd]
      exact exec_ready i hs
    have hready : (readyEffect i (s.dropEvent.sample r)).state = .ready := readyEffect_ready hs hi
    have hevents : (readyEffect i (s.dropEvent.sample r)).events = rest.map .command := by
      rw [(readyEffect_frame i _).2, sample_events, dropEvent_events, he, List.map_cons, List.tail_cons]
    exact endedWell_accepted _ he hf hstep hready
      (ih hready hevents fun q hq => hall q (List.mem_cons_of_mem r hq))

/-- From UNCONFIGURED as well, when the first command is a CREATE in range. -/
theorem endedWell_from_create {s : State} {first : Request} {rest : List Request}
    (hcreate : ∃ reorder reflect bits, decode first.cmd = .command (.create reorder reflect bits))
    (hall : ∀ r ∈ first :: rest, r.RunsInReady) (hf : s.state ≠ .fault)
    (he : s.events = .command first :: rest.map .command) : endedWell (rest.length + 1) s = true := by
  obtain ⟨reorder, reflect, bits, hd⟩ := hcreate
  obtain ⟨i, hi, hrange⟩ := hall first List.mem_cons_self
  cases hd.symm.trans hi
  obtain ⟨hpos, hle⟩ := hrange _ _ _ rfl
  have hstep : step s = .next (configure reorder reflect bits (s.dropEvent.sample first)) := by
    rw [step_command hf he hd]
    exact exec_create_in_range reorder reflect hf hpos hle
  refine endedWell_accepted _ he hf hstep rfl
    (endedWell_from_ready rest rfl ?_ fun q hq => hall q (List.mem_cons_of_mem first hq))
  rw [configure_events, sample_events, dropEvent_events, he, List.tail_cons]

/-- After a power-on reset, from any state. -/
theorem endedWell_after_por {s : State} {rest : List HostEvent} (n : Nat) (he : s.events = .por :: rest)
    (ht : endedWell n (powerOnReset s.dropEvent) = true) : endedWell (n + 1) s = true := by
  have hin : s.turnsAway = false := by simp [State.turnsAway, he]
  rw [endedWell_step n (by simp [he]) (step_por he), hin, ht]
  rfl

end Sys2Proof.Machine
end

section
/-! ### The obligation on the end of a run -/

open Sys2Proof Sys2Proof.Machine

/-- Settles O59: FAULT is never left for a good end, and each command of such a run is accepted and leads to READY. -/
theorem legalRunsEndWellAndFaultedOnesDoNot : Obligations.LegalRunsEndWellAndFaultedOnesDoNot := by
  refine ⟨fun n s => endedWell_in_fault n, fun n k s t hk hn hrun ht => ?_, fun s first rest hcreate hall => ⟨?_, ?_⟩⟩
  · obtain ⟨k, rfl⟩ := Nat.exists_eq_add_of_le' hk
    exact endedWell_of_run_to_fault k hn hrun ht
  · exact endedWell_from_create hcreate hall
  · intro he
    have hevents : (powerOnReset s.dropEvent).events = .command first :: rest.map .command := by
      rw [powerOnReset_events, dropEvent_events, he, List.tail_cons]
    exact endedWell_after_por _ he (endedWell_from_create hcreate hall (by simp) hevents)

end
